-- ==== Sys2Proof/Word.lean ====
section
/-! DEFINITION. The word types of the FSK encoder: command and register words (R50, R38) and stream bytes (R32). -/

namespace Sys2Proof

/-- A 32-bit command word or register value (`30_encoding.md` R50, `20_memory.md` R38). -/
abbrev Word := BitVec 32

/-- One byte of a `Byte b` item, `b` in 0..255 (`20_memory.md` R32). -/
abbrev Byte := BitVec 8

end Sys2Proof
end

