-- ==== Sys2Proof/Syntax.lean ====
section
/-! DEFINITION. The seven commands of the block (`30_encoding.md` R54), one constructor per row of spec/opcode_table.json. -/

namespace Sys2Proof

/-- A command with its operands, which are plain natural numbers (R7, R53) and one bit (`BIT`'s `b`). That a
number may lie outside its field's range, where no step can reach it, is a DESIGN CHOICE (log entry 12). -/
inductive Instr where
  /-- `PULSE f`: one pulse at `f` hertz (R79). -/
  | pulse (f : Nat)
  /-- `BIT f, b`: one data bit (R90). -/
  | bit (f : Nat) (b : Bool)
  /-- `BYTE f, d`: one byte as an 11-slot frame (R92). -/
  | byte (f d : Nat)
  /-- `SHDR f`: one short header (R101). -/
  | shdr (f : Nat)
  /-- `LHDR f`: one long header (R102). -/
  | lhdr (f : Nat)
  /-- `FLUSH`: pad, hand off, close the session (R117). -/
  | flush
  /-- `OPEN width, srate`: create the PCM buffer (R112). -/
  | openBuf (width srate : Nat)
deriving DecidableEq, Repr

end Sys2Proof
end

