-- ==== Sys2Proof/WellFormed.lean ====
section
/-! DEFINITION. When a command's operands are in range: the ranges of `30_encoding.md` R53 and of its assembler syntax, R57.
`WIDTH` 0 and 3..7, `SRATE` 0 and `FREQ` 0 are well-formed operands (R52, R51): OPEN and the emitting commands refuse them. -/

namespace Sys2Proof

/-- `FREQ` is 16 bits (R51): 0..65535. -/
def freqInRange (f : Nat) : Bool := decide (f < 65536)

/-- `DATA` is 8 bits (R51): 0..255. -/
def dataInRange (d : Nat) : Bool := decide (d < 256)

/-- The `WIDTH` field of OPEN is 3 bits (R52): 0..7. -/
def widthInRange (w : Nat) : Bool := decide (w < 8)

/-- The `SRATE` field of OPEN is 24 bits (R52): 0..16777215. -/
def srateInRange (r : Nat) : Bool := decide (r < 16777216)

/-- Every operand of the command is in the range its field admits (R53, R57). `BIT`'s `b` is a bit by its type. -/
def Instr.wf : Instr → Bool
  | .pulse f => freqInRange f
  | .bit f _ => freqInRange f
  | .byte f d => freqInRange f && dataInRange d
  | .shdr f => freqInRange f
  | .lhdr f => freqInRange f
  | .flush => true
  | .openBuf w r => widthInRange w && srateInRange r

end Sys2Proof
end

