-- ==== Sys2Proof/Decode.lean ====
section
/-! DEFINITION. `Decode` and `Encode` of `30_encoding.md` (R50 to R56): total on the 2^32 command words, every illegal word
rejected by name; the encoder is written from R55's formulas; and the host's numbering of table words. -/

namespace Sys2Proof

/-- `w[hi:lo]`, the unsigned integer made of bits `hi` down to `lo` of a command word (R7). -/
def field (w : Word) (hi lo : Nat) : Nat := w.toNat / 2 ^ lo % 2 ^ (hi + 1 - lo)

/-- Why a word is illegal (R56): the reasons are the model's names for R56's cases; the block records only `EILL`
(DESIGN CHOICE, log entry 11). -/
inductive Illegal where
  /-- Opcode 0x0 or 0x8 to 0xF. -/
  | opcode
  /-- A reserved bit is set: `w[27:24]` of an E word, `w[27]` of OPEN. -/
  | reservedBit
  /-- `DATA` bits that must be 0 are not: PULSE, SHDR, LHDR with `w[7:0] != 0`, BIT with `w[7:1] != 0`. -/
  | dataBits
  /-- FLUSH with any of `w[27:0]` set. -/
  | flushOperand
deriving DecidableEq, Repr

/-- What `Decode` answers (R55): one of the seven commands, or Illegal. -/
inductive Decoded where
  | command (i : Instr)
  | illegal (why : Illegal)
deriving DecidableEq, Repr

/-- The E format without operand data (R51): `RSV = 0` and `DATA = 0`, then the command on `FREQ`. -/
def decodePlain (w : Word) (mk : Nat → Instr) : Decoded :=
  if field w 27 24 ≠ 0 then .illegal .reservedBit
  else if field w 7 0 ≠ 0 then .illegal .dataBits
  else .command (mk (field w 23 8))

/-- BIT (R51): `DATA[7:1] = 0`, `b = w[0]`. -/
def decodeBit (w : Word) : Decoded :=
  if field w 27 24 ≠ 0 then .illegal .reservedBit
  else if field w 7 1 ≠ 0 then .illegal .dataBits
  else .command (.bit (field w 23 8) (decide (field w 0 0 = 1)))

/-- BYTE (R51): every `DATA` value is a data byte. -/
def decodeByte (w : Word) : Decoded :=
  if field w 27 24 ≠ 0 then .illegal .reservedBit
  else .command (.byte (field w 23 8) (field w 7 0))

/-- FLUSH (R51): every bit below the opcode is 0. -/
def decodeFlush (w : Word) : Decoded :=
  if field w 27 0 ≠ 0 then .illegal .flushOperand else .command .flush

/-- OPEN, the C format (R52): bit 27 is 0, `WIDTH = w[26:24]`, `SRATE = w[23:0]`. -/
def decodeOpen (w : Word) : Decoded :=
  if field w 27 27 ≠ 0 then .illegal .reservedBit
  else .command (.openBuf (field w 26 24) (field w 23 0))

/-- `Decode(w)` (R55): the top four bits choose the format (R50). It looks at the word only, never at the state. -/
def decode (w : Word) : Decoded :=
  match field w 31 28 with
  | 1 => decodePlain w .pulse
  | 2 => decodeBit w
  | 3 => decodeByte w
  | 4 => decodePlain w .shdr
  | 5 => decodePlain w .lhdr
  | 6 => decodeFlush w
  | 7 => decodeOpen w
  | _ => .illegal .opcode

/-- `Encode` (R55), as the natural number the rule writes. -/
def encodeNat : Instr → Nat
  | .pulse f => 0x10000000 + f * 256
  | .bit f b => 0x20000000 + f * 256 + b.toNat
  | .byte f d => 0x30000000 + f * 256 + d
  | .shdr f => 0x40000000 + f * 256
  | .lhdr f => 0x50000000 + f * 256
  | .flush => 0x60000000
  | .openBuf w r => 0x70000000 + w * 2 ^ 24 + r

/-- `Encode` (R55): the command word of a well-formed command. -/
def encode (i : Instr) : Word := BitVec.ofNat 32 (encodeNat i)

/-- One row of the opcode map (R54): `w` is the row's command exactly when `w AND mask = match`. -/
structure OpcodeRow where
  mnemonic : String
  pattern : Word
  mask : Word
deriving DecidableEq, Repr

/-- The complete opcode map (R54), in the table's order. -/
def opcodeMap : List OpcodeRow :=
  [ ⟨"PULSE", 0x10000000, 0xFF0000FF⟩, ⟨"BIT", 0x20000000, 0xFF0000FE⟩,
    ⟨"BYTE", 0x30000000, 0xFF000000⟩, ⟨"SHDR", 0x40000000, 0xFF0000FF⟩,
    ⟨"LHDR", 0x50000000, 0xFF0000FF⟩, ⟨"FLUSH", 0x60000000, 0xFFFFFFFF⟩,
    ⟨"OPEN", 0x70000000, 0xF8000000⟩ ]

/-- Whether the word is selected by the row (R54). -/
def OpcodeRow.selects (r : OpcodeRow) (w : Word) : Bool := w &&& r.mask == r.pattern

/-- The mnemonic of a command (R54, R57). -/
def Instr.mnemonic : Instr → String
  | .pulse _ => "PULSE"
  | .bit _ _ => "BIT"
  | .byte _ _ => "BYTE"
  | .shdr _ => "SHDR"
  | .lhdr _ => "LHDR"
  | .flush => "FLUSH"
  | .openBuf _ _ => "OPEN"

/-- The instruction a table word of `nbits` bits decodes to; a command is one 32-bit word (R50), so bits above `nbits` are 0. -/
def decodeTableWord (nbits w : Nat) : Option Instr :=
  match decode (BitVec.ofNat 32 (w % 2 ^ nbits)) with
  | .command i => some i
  | .illegal _ => none

end Sys2Proof
end

