-- ==== Sys2Proof/Config.lean ====
section
/-! DEFINITION. The implementation parameters of `00_scope.md` R6, each at the value R6's table gives this hardware
(DESIGN CHOICE to fix them: log entry 10), and the
platform parameter BASE of R39, which no rule reads. -/

namespace Sys2Proof.Config

/-- `SRATE_RESET` (R6): samples per second after reset. -/
abbrev srateReset : BitVec 24 := 44100

/-- `WIDTH_RESET` (R6): bytes per sample after reset. -/
abbrev widthReset : BitVec 3 := 1

/-- `HDR_NUM` (R6). -/
abbrev hdrNum : Nat := 4000

/-- `HDR_DEN` (R6). -/
abbrev hdrDen : Nat := 1200

/-- `HDR_LONG_REPEAT` (R6): short headers in a long one. -/
abbrev hdrLongRepeat : Nat := 4

/-- `BIT_SLOTS_PER_BYTE` (R6): 1 start, 8 data, 2 stop. -/
abbrev bitSlotsPerByte : Nat := 11

/-- `CHANNELS` (R6): mono. -/
abbrev channels : Nat := 1

/-- The largest value of the 32-bit sample counter (R6 `W_EMITTED`, R11): `2^32 - 1`. -/
abbrev maxSamples : Nat := 4294967295

/-- `WIDTHS` (R6): the legal sample widths in bytes are 1 and 2. -/
abbrev WidthLegal (w : Nat) : Prop := w = 1 ∨ w = 2

/-- `BASE` (R39): the window's base address, left to the platform; no rule and no definition of the model reads it
(log entry 13). -/
opaque base : Nat

end Sys2Proof.Config
end

