-- ==== Sys2Proof/Machine/State.lean ====
section
/-! DEFINITION. The machine's state: the seven elements of `10_state.md` R10 and the output stream of `20_memory.md` R32, as
plain data, with the model's own record of what the host still has to do and has been answered; the state after reset
(R25); and the outcomes of a step that are no next state. -/

namespace Sys2Proof.Machine

/-- `SESSION` (R10, R21): whether a PCM buffer exists. -/
inductive Session where
  /-- 0: no PCM buffer exists. -/
  | closed
  /-- 1: between a successful OPEN and the next FLUSH. -/
  | opened
deriving DecidableEq, Repr

/-- One item of the output stream (R32). -/
inductive Item where
  /-- `Byte b`. -/
  | byte (b : Byte)
  /-- `End(channels, width, srate, flt)`: the hand-off that closes a session's data (R118). -/
  | endItem (channels : Nat) (width : BitVec 3) (srate : BitVec 24) (flt : Bool)
deriving DecidableEq, Repr

/-- The size of a bus access to the register window. Only `word` accesses are `RegRead` and `RegWrite` (R37;
the other sizes: log entry 6). -/
inductive AccessSize where
  | byte
  | half
  | word
deriving DecidableEq, Repr

/-- One thing the outside world does to the block: an access to the register window at a byte offset from its base
(R33, R34, R37), or a pulse of the reset input (R160). -/
inductive Input where
  | read (size : AccessSize) (off : Nat)
  | write (size : AccessSize) (off : Nat) (v : Word)
  | reset
deriving DecidableEq, Repr

/-- The state. The first seven fields are R10's elements, `out` is R32's stream; the last three are the model's own: the
inputs that have yet to arrive, the values `RegRead`s were answered with, and the streams of earlier runs (R161). -/
structure State where
  /-- `SESSION`, 1 bit (R10, R21). -/
  session : Session
  /-- `WIDTH`, 3 bits: bytes per sample of the current or most recent session (R10). -/
  width : BitVec 3
  /-- `SRATE`, 24 bits: samples per second of the current or most recent session (R10). -/
  srate : BitVec 24
  /-- `EMITTED`, 32 bits: samples emitted since the session was opened (R11). -/
  emitted : BitVec 32
  /-- `PULSES`, 32 bits: pulses emitted since the session was opened (R12). -/
  pulses : BitVec 32
  /-- `CAUSE`, 4 bits: 0, or the code of the first fault (R10, R130). -/
  cause : BitVec 4
  /-- `ERRINFO`, 32 bits: the command word that raised the recorded fault (R10). -/
  errinfo : BitVec 32
  /-- `OUT`, the output stream (R32), oldest item first. -/
  out : List Item
  /-- Inputs still to arrive, in their order of arrival (R36, R41). The model's own field: DESIGN CHOICE, log entry 1. -/
  inbox : List Input
  /-- What the host's reads were answered with, oldest first (R33). The model's own field: DESIGN CHOICE, log entry 2. -/
  answers : List Word
  /-- The streams of the runs that a reset ended, oldest first (R161). The model's own field: DESIGN CHOICE, log entry 4. -/
  earlierRuns : List (List Item)
deriving DecidableEq, Repr

/-- Why a step might stop the machine: nothing does, since every input has a defined result and a recorded fault is ordinary
state (R142, `93_implementation_defined.md`). Closed and empty: no meaning and no step ever raises one
(DEDUCED, safe: log entry 15). -/
inductive Fault : Type
deriving DecidableEq, Repr

/-- Why a step might give an instruction no meaning. -/
inductive Refusal where
  /-- Raised only by an arm of `exec` that has no meaning yet; safe. No arm of this model raises it. -/
  | notModelled (mnemonic : String)
deriving DecidableEq, Repr

/-- What an instruction, and a step, answers. -/
abbrev Result := Host.Outcome State Fault Refusal

namespace State

/-- The state after reset: the last column of R10's table (R25, R160), with `OUT = []` (R161). -/
def reset : State where
  session := .closed
  width := Config.widthReset
  srate := Config.srateReset
  emitted := 0
  pulses := 0
  cause := 0
  errinfo := 0
  out := []
  inbox := []
  answers := []
  earlierRuns := []

end State

end Sys2Proof.Machine
end

