-- ==== Sys2Proof/Machine/Flags.lean ====
section
/-! DEFINITION. The block has no arithmetic flags (`10_state.md` R15). Its status bits are `SESSION` and `CAUSE`: the fault
causes and their codes (R130), the registers that show them (R16, R17) and the `fault` output (R139). -/

namespace Sys2Proof.Machine

/-- The five faults (R130). -/
inductive Cause where
  /-- Sample width not 1 or 2, or sample rate 0 (OPEN). -/
  | ecfg
  /-- Command not allowed in the current session state. -/
  | eseq
  /-- The word does not decode. -/
  | eill
  /-- `F = 0`, or twice the command's highest pulse frequency exceeds `SRATE`. -/
  | efreq
  /-- The pulse would take `EMITTED` above `2^32 - 1`. -/
  | eovf
deriving DecidableEq, Repr

/-- The value `CAUSE` takes (R130, D28). -/
def Cause.code : Cause → BitVec 4
  | .ecfg => 1
  | .eseq => 2
  | .eill => 3
  | .efreq => 4
  | .eovf => 5

/-- `SESSION` as the bit R10 gives it. -/
def Session.bit : Session → Nat
  | .closed => 0
  | .opened => 1

/-- `STATUS.FAULT` (R16): whether a fault is recorded. -/
def faulted (s : State) : Bool := s.cause != 0#4

/-- The `fault` output (R139), a level. -/
def faultOutput (s : State) : Bool := faulted s

/-- `STATUS` (R16): `OPEN` in bit 0, `FAULT` in bit 1, `CAUSE` in bits 11:8, every other bit 0. -/
def statusWord (s : State) : Word :=
  BitVec.ofNat 32 (s.session.bit + 2 * (faulted s).toNat + 256 * s.cause.toNat)

/-- `CFG` (R17): `SRATE` in bits 23:0, `WIDTH` in bits 26:24, every other bit 0. -/
def cfgWord (s : State) : Word := BitVec.ofNat 32 (s.srate.toNat + 2 ^ 24 * s.width.toNat)

end Sys2Proof.Machine
end

