-- ==== Sys2Proof/Machine/ToneClock.lean ====
section
/-! DEFINITION. The arithmetic core: the rounded quotient and the tone clock that maps a pulse index to exact sample
boundaries (`40_tone_clock_pulse.md` R70 to R74), in exact natural numbers (R71), and the header's pulse count (R100). -/

namespace Sys2Proof.Machine

/-- `rnd(a, b)` (R70): the integer nearest to `a / b`, an exact half going to the even neighbour. -/
def rnd (a b : Nat) : Nat :=
  let q := a / b
  let r := a % b
  if 2 * r < b then q
  else if 2 * r > b then q + 1
  else if q % 2 = 0 then q
  else q + 1

/-- The current pulse index (R72): `p = rnd(EMITTED * Fp, S)`, recomputed from `EMITTED` at every pulse. -/
def pulseIndex (srate fp emitted : Nat) : Nat := rnd (emitted * fp) srate

/-- `start` of grid pulse `p` (R73). -/
def pulseStart (srate fp p : Nat) : Nat := rnd (2 * p * srate) (2 * fp)

/-- `mid` of grid pulse `p` (R73). -/
def pulseMid (srate fp p : Nat) : Nat := rnd ((2 * p + 1) * srate) (2 * fp)

/-- `end` of grid pulse `p` (R73). -/
def pulseEnd (srate fp p : Nat) : Nat := rnd ((2 * p + 2) * srate) (2 * fp)

/-- `n_lo = mid - start`, the low samples of the pulse emitted next (R78). -/
def lowSamples (srate fp emitted : Nat) : Nat :=
  pulseMid srate fp (pulseIndex srate fp emitted) - pulseStart srate fp (pulseIndex srate fp emitted)

/-- `n_hi = end - mid`, the high samples of the pulse emitted next (R78). -/
def highSamples (srate fp emitted : Nat) : Nat :=
  pulseEnd srate fp (pulseIndex srate fp emitted) - pulseMid srate fp (pulseIndex srate fp emitted)

/-- `HdrCount(F)` (R100): the pulses of one short header. -/
def hdrCount (f : Nat) : Nat := rnd (Config.hdrNum * f) Config.hdrDen

end Sys2Proof.Machine
end

