-- ==== Sys2Proof/Machine/Operands.lean ====
section
/-! DEFINITION. What a command's operands stand for: the frequency check (`40_tone_clock_pulse.md` R81), the bit slots of a
byte (`41_bit_byte.md` R92), and the pulse frequencies a command uses, in order (R79, R90, R92, R101, R102). -/

namespace Sys2Proof.Machine

/-- `FreqOK(Fx)` (R81): `Fx >= 1` and `2 * Fx <= SRATE`. -/
def freqOk (fx : Nat) (srate : BitVec 24) : Bool := decide (1 ≤ fx) && decide (2 * fx ≤ srate.toNat)

/-- `Slot(F, b)` (R92, and R90 without its check): one pulse at `F`, or two at `2*F`. -/
def slotPulses (f : Nat) (b : Bool) : List Nat := if b then [2 * f, 2 * f] else [f]

/-- The eleven slots of a byte (R92): start bit, `D[0]` to `D[7]`, two stop bits. -/
def byteSlots (d : Nat) : List Bool :=
  [false, d.testBit 0, d.testBit 1, d.testBit 2, d.testBit 3,
    d.testBit 4, d.testBit 5, d.testBit 6, d.testBit 7, true, true]

/-- The pulses of BYTE, slot by slot (R92). -/
def bytePulses (f d : Nat) : List Nat := (byteSlots d).flatMap (slotPulses f)

/-- The pulses of a short header (R101): `HdrCount(F)` pulses at `2*F`. -/
def shortHeaderPulses (f : Nat) : List Nat := List.replicate (hdrCount f) (2 * f)

/-- The pulses of a long header (R102): four short headers, one after another. -/
def longHeaderPulses (f : Nat) : List Nat := (List.replicate Config.hdrLongRepeat (shortHeaderPulses f)).flatten

/-- `Fmax` of BIT (R81): `F` for `b = 0`, `2*F` for `b = 1`. -/
def bitTopFreq (f : Nat) (b : Bool) : Nat := if b then 2 * f else f

end Sys2Proof.Machine
end

