-- ==== Sys2Proof/Machine/Ops.lean ====
section
/-! DEFINITION. The operations every command is written over: the named updates of the state, the sample levels and their
bytes (R35, R76, R77), the pulse procedure (R78), taking a fault (R136, R137) and leaving it (R140), and command acceptance
(R134, R135). -/

namespace Sys2Proof.Machine

namespace State

/-- `Out` and `OutEnd` (R32): append items at the end of the stream. -/
def append (s : State) (items : List Item) : State := { s with out := s.out ++ items }

/-- Count one pulse of `n` samples (R78). The caller has checked that the sum fits the counter; that
`PULSES` fits is R12 (DEDUCED, log entry 9). -/
def countPulse (s : State) (n : Nat) : State :=
  { s with emitted := BitVec.ofNat 32 (s.emitted.toNat + n), pulses := s.pulses + 1 }

/-- Write the fault record (R136). -/
def record (s : State) (code : BitVec 4) (w : Word) : State := { s with cause := code, errinfo := w }

/-- `SESSION <- 0` (R117). -/
def close (s : State) : State := { s with session := .closed }

/-- Create the buffer (R112): latch the configuration, zero the counters, `SESSION <- 1`. -/
def create (s : State) (w : BitVec 3) (r : BitVec 24) : State :=
  { s with session := .opened, width := w, srate := r, emitted := 0, pulses := 0 }

/-- The inputs still to arrive, once the first has been taken. -/
def withInbox (s : State) (inbox : List Input) : State := { s with inbox := inbox }

/-- Record what a read was answered with (R33). -/
def answer (s : State) (v : Word) : State := { s with answers := s.answers ++ [v] }

/-- The reset input (R160, R161): every element takes its reset value and a new run starts with `OUT = []`; the items already
delivered stay delivered, as the stream of an earlier run, with no `End` item added (DESIGN CHOICE, log entry 4). -/
def restart (s : State) : State :=
  { reset with inbox := s.inbox, answers := s.answers, earlierRuns := s.earlierRuns ++ [s.out] }

end State

/-! ### Samples -/

/-- The two levels a pulse uses (R76). -/
inductive Level where
  | lo
  | hi
deriving DecidableEq, Repr

/-- The value of a level in the sample format of the width (R76): unsigned 8-bit, or signed 16-bit. Widths other than 1 and 2
do not exist (R76); the model treats them as 2, in states no run reaches (DESIGN CHOICE, log entry 8). -/
def Level.value (w : BitVec 3) : Level → Int
  | .lo => if w = 1#3 then 0 else -32768
  | .hi => if w = 1#3 then 255 else 32767

/-- `SampleBytes(v)` (R77, R35): one byte for width 1; for width 2 the 16-bit two's complement pattern, low byte first. -/
def sampleBytes (w : BitVec 3) (v : Int) : List Byte :=
  if w = 1#3 then [BitVec.ofInt 8 v]
  else [(BitVec.ofInt 16 v).extractLsb' 0 8, (BitVec.ofInt 16 v).extractLsb' 8 8]

/-- `n` samples of a level as stream items (R78: repeat `n` times, each byte of the sample in order). -/
def sampleRun (w : BitVec 3) (l : Level) (n : Nat) : List Item :=
  (List.replicate n (sampleBytes w (l.value w))).flatten.map .byte

/-! ### Faults -/

/-- `raise X(w)` (R136): the first fault is kept, and nothing else is saved or changed. -/
def raise (c : Cause) (w : Word) (s : State) : State :=
  if s.cause = 0#4 then s.record c.code w else s

/-- Leaving the fault state (R140): `CAUSE <- 0`, `ERRINFO <- 0`, done by a successful OPEN (R112). -/
def clearFault (s : State) : State := s.record 0 0

/-! ### Pulses -/

/-- `EmitPulse(Fp)` (R78); `none` when the pulse would take `EMITTED` above `2^32 - 1`, and then nothing of it is emitted. -/
def emitPulse (fp : Nat) (s : State) : Option State :=
  let nLo := lowSamples s.srate.toNat fp s.emitted.toNat
  let nHi := highSamples s.srate.toNat fp s.emitted.toNat
  if s.emitted.toNat + nLo + nHi > Config.maxSamples then none
  else some ((s.append (sampleRun s.width .lo nLo ++ sampleRun s.width .hi nHi)).countPulse (nLo + nHi))

/-- The pulses of a command, one after another; the first that does not fit raises `EOVF` with the command word and ends the
command, the pulses before it staying emitted and counted (R78, R137). -/
def emitPulses (cw : Word) : List Nat → State → State
  | [], s => s
  | fp :: rest, s =>
    match emitPulse fp s with
    | none => raise .eovf cw s
    | some t => emitPulses cw rest t

/-! ### Acceptance -/

/-- Command acceptance for a word that decodes (R134, R135): `needs` is the session state the command fits (R110),
`underFault` whether it is one of the two that still execute while a fault is recorded, `act` the command itself. -/
def accept (needs : Session) (underFault : Bool) (cw : Word) (act : State → State) (s : State) : State :=
  if s.cause = 0#4 then
    if s.session = needs then act s else raise .eseq cw s
  else if underFault && s.session == needs then act s
  else s

/-- An emitting command (R79, R90, R92, R101, R102): accepted only in an open session with no fault recorded, checked once on
its highest pulse frequency (R81), then its pulses in order. -/
def emitCommand (cw : Word) (topFreq : Nat) (train : List Nat) (s : State) : State :=
  accept .opened false cw
    (fun u => if freqOk topFreq u.srate then emitPulses cw train u else raise .efreq cw u) s

end Sys2Proof.Machine
end

