-- ==== Sys2Proof/Machine/BitByte.lean ====
section
/-! DEFINITION. BIT and BYTE (`41_bit_byte.md` R90, R92). -/

namespace Sys2Proof.Machine

/-- `BIT f, b` (R90): one pulse at `F`, or two at `2*F`; the check is on the frequency the bit value uses. -/
def execBit (f : Nat) (b : Bool) (s : State) : Result :=
  .next (emitCommand (encode (.bit f b)) (bitTopFreq f b) (slotPulses f b) s)

/-- `BYTE f, d` (R92): eleven bit slots, one check on `2*F` for all of them. -/
def execByte (f d : Nat) (s : State) : Result :=
  .next (emitCommand (encode (.byte f d)) (2 * f) (bytePulses f d) s)

end Sys2Proof.Machine
end

