-- ==== Sys2Proof/Machine/Buffer.lean ====
section
/-! DEFINITION. The session commands OPEN and FLUSH (`43_session.md` R110 to R119). -/

namespace Sys2Proof.Machine

/-- The pad of FLUSH (R117): one zero byte exactly when `WIDTH = 1` and `EMITTED` is odd. -/
def padItems (s : State) : List Item :=
  if s.width = 1#3 ∧ s.emitted.toNat % 2 = 1 then [.byte 0x00] else []

/-- The hand-off of FLUSH (R117, R118): `End(1, WIDTH, SRATE, flt)`, `flt` set when a fault is recorded. -/
def handOff (s : State) : Item := .endItem Config.channels s.width s.srate (faulted s)

/-- The body of FLUSH (R117, R119): pad, hand off, close; nothing else changes. -/
def flushBuffer (s : State) : State := (s.append (padItems s ++ [handOff s])).close

/-- `FLUSH` (R117), which executes on an open session whether or not a fault is recorded. -/
def execFlush (s : State) : Result := .next (accept .opened true (encode .flush) flushBuffer s)

/-- The body of OPEN (R112): an unsupported width or a zero rate raises `ECFG`; else the buffer is created and the fault
record cleared. -/
def createBuffer (cw : Word) (width srate : Nat) (s : State) : State :=
  if ¬Config.WidthLegal width ∨ srate = 0 then raise .ecfg cw s
  else clearFault (s.create (BitVec.ofNat 3 width) (BitVec.ofNat 24 srate))

/-- `OPEN width, srate` (R112), which executes on a closed session whether or not a fault is recorded. -/
def execOpenBuf (width srate : Nat) (s : State) : Result :=
  .next (accept .closed true (encode (.openBuf width srate)) (createBuffer (encode (.openBuf width srate)) width srate) s)

end Sys2Proof.Machine
end

