-- ==== Sys2Proof/Machine/Header.lean ====
section
/-! DEFINITION. SHDR and LHDR (`42_header.md` R101, R102). -/

namespace Sys2Proof.Machine

/-- `SHDR f` (R101): `HdrCount(F)` pulses at `2*F`. -/
def execShdr (f : Nat) (s : State) : Result :=
  .next (emitCommand (encode (.shdr f)) (2 * f) (shortHeaderPulses f) s)

/-- `LHDR f` (R102): four short headers under one frequency check. -/
def execLhdr (f : Nat) (s : State) : Result :=
  .next (emitCommand (encode (.lhdr f)) (2 * f) (longHeaderPulses f) s)

end Sys2Proof.Machine
end

