-- ==== Sys2Proof/Machine/Pulse.lean ====
section
/-! DEFINITION. PULSE (`40_tone_clock_pulse.md` R79). -/

namespace Sys2Proof.Machine

/-- `PULSE f` (R79): one pulse at frequency `f`. -/
def execPulse (f : Nat) (s : State) : Result := .next (emitCommand (encode (.pulse f)) f [f] s)

end Sys2Proof.Machine
end

