-- ==== Sys2Proof/Machine/Dispatch.lean ====
section
/-! DEFINITION. One arm per command, each one direct call of its meaning. -/

namespace Sys2Proof.Machine

def exec (i : Instr) (s : State) : Host.Outcome State Fault Refusal :=
  match i with
  | .pulse f => Sys2Proof.Machine.execPulse f s
  | .bit f b => Sys2Proof.Machine.execBit f b s
  | .byte f d => Sys2Proof.Machine.execByte f d s
  | .shdr f => Sys2Proof.Machine.execShdr f s
  | .lhdr f => Sys2Proof.Machine.execLhdr f s
  | .flush => Sys2Proof.Machine.execFlush s
  | .openBuf w r => Sys2Proof.Machine.execOpenBuf w r s

end Sys2Proof.Machine
end

