-- ==== Sys2Proof/Machine/Window.lean ====
section
/-! DEFINITION. The register window and what reaches it: `RegRead`, `RegWrite` (`20_memory.md` R33, R34), `Execute`
(`60_exceptions.md` R134), the accesses a platform must not route to the block (R37), the reset input (R160), and one
physical form of a stream item (R46). -/

namespace Sys2Proof.Machine

/-- `RegRead(off)` (R33, R31): the registers at their offsets; `CMD`, the reserved offsets and every other offset read 0 (R19,
R20, R37). -/
def regRead (off : Nat) (s : State) : Word :=
  match off with
  | 0x04 => statusWord s
  | 0x08 => cfgWord s
  | 0x0C => s.emitted
  | 0x10 => s.pulses
  | 0x14 => s.errinfo
  | _ => 0

/-- An illegal word (R56, R131, R135): raises `EILL`, or is discarded when a fault is already recorded. -/
def illegalWord (w : Word) (s : State) : State := raise .eill w s

/-- `Execute(w)` (R134): decode, then the command's own acceptance and effect. The word a
meaning records is the encoding of its command, by R55 this very word (DEDUCED, log entry 7). -/
def execute (w : Word) (s : State) : Result :=
  match decode w with
  | .command i => exec i s
  | .illegal _ => .next (illegalWord w s)

/-- `RegWrite(off, v)` (R34): a write of `CMD` executes the word; every other write does nothing. -/
def regWrite (off : Nat) (v : Word) (s : State) : Result :=
  match off with
  | 0x00 => execute v s
  | _ => .next s

/-- A read at the bus (R33, R37): only a 32-bit access is a `RegRead`; any other the block answers with 0
(DESIGN CHOICE to offer it at all, log entry 6). -/
def busRead (size : AccessSize) (off : Nat) (s : State) : Word :=
  match size with
  | .word => regRead off s
  | .half => 0
  | .byte => 0

/-- A write at the bus (R34, R37): only a 32-bit access is a `RegWrite`; any other has no effect. -/
def busWrite (size : AccessSize) (off : Nat) (v : Word) (s : State) : Result :=
  match size with
  | .word => regWrite off v s
  | .half => .next s
  | .byte => .next s

/-- One input (R33, R34, R160). A read changes nothing but the record of answers. -/
def takeInput (x : Input) (s : State) : Result :=
  match x with
  | .read size off => .next (s.answer (busRead size off s))
  | .write size off v => busWrite size off v s
  | .reset => .next s.restart

/-- The next input in the order of arrival (R36, R41); with none, the block is idle and keeps all state (R150;
DEDUCED, log entry 3). -/
def nextInput (s : State) : Result :=
  match s.inbox with
  | [] => .next s
  | x :: rest => takeInput x (s.withInbox rest)

/-- The write of a command word to `CMD` (R19). -/
def cmdWrite (w : Word) : Input := .write .word 0x00 w

/-- The 9-bit item of R46: `item[8] = 0` and the byte, or `item[8] = 1` with `item[0] = flt`. -/
def Item.wire : Item → BitVec 9
  | .byte b => BitVec.ofNat 9 b.toNat
  | .endItem _ _ _ flt => BitVec.ofNat 9 (256 + flt.toNat)

/-- The sideband outputs `cfg_channels`, `cfg_width`, `cfg_srate` (R46), valid while an `End` item is offered. -/
def Item.sideband : Item → Option (Nat × BitVec 3 × BitVec 24)
  | .byte _ => none
  | .endItem c w r _ => some (c, w, r)

end Sys2Proof.Machine
end

