-- ==== Sys2Proof/Machine/Step.lean ====
section
/-! DEFINITION. One step of the machine: the next input arrives and is completed (`10_state.md` R14, R23). -/

namespace Sys2Proof.Machine

/-- One step: the next input is taken and completed, a command with all its items, which the consumer is taken to accept (R23,
R169; DEDUCED, log entry 5). -/
def step (s : State) : Host.Outcome State Fault Refusal := nextInput s

/-- The state with a command word as the next input: the host's write of it to `CMD` (R19), before whatever else is to arrive
(DESIGN CHOICE, log entry 1). -/
def State.withFetchWord (s : State) (nbits w : Nat) : State :=
  s.withInbox (cmdWrite (BitVec.ofNat 32 (w % 2 ^ nbits)) :: s.inbox)

end Sys2Proof.Machine
end

