-- ==== Sys2Proof/Machine/Assembler.lean ====
section
/-! DEFINITION. The spec's assembler lines and what each stands for at the window (`30_encoding.md` R57), and a straight list
of commands run one after another (R59). What R57 leaves open of the text is a DESIGN CHOICE (log entry 16). -/

namespace Sys2Proof.Machine

/-- The registers a `READ` line names (R57). -/
inductive ReadReg where
  | status
  | cfg
  | emitted
  | pulses
  | errinfo
deriving DecidableEq, Repr

/-- The register's offset in the window (R31). -/
def ReadReg.offset : ReadReg → Nat
  | .status => 0x04
  | .cfg => 0x08
  | .emitted => 0x0C
  | .pulses => 0x10
  | .errinfo => 0x14

/-- The register's name in a `READ` line (R57). -/
def ReadReg.name : ReadReg → String
  | .status => "STATUS"
  | .cfg => "CFG"
  | .emitted => "EMITTED"
  | .pulses => "PULSES"
  | .errinfo => "ERRINFO"

/-- A line of a host program (R57): a command, a `.word`, or a `READ`. -/
inductive Line where
  | command (i : Instr)
  | word (w : Word)
  | read (r : ReadReg)
deriving DecidableEq, Repr

/-- What the line does at the window (R57): one `CMD` write of the word it assembles to, or one `RegRead`. -/
def Line.input : Line → Input
  | .command i => cmdWrite (encode i)
  | .word w => cmdWrite w
  | .read r => .read .word r.offset

/-- A host program as the inputs it makes, in order (R57). -/
def assemble (program : List Line) : List Input := program.map Line.input

/-- A number of an operand, in decimal (R57). -/
def operandText (n : Nat) : String := toString n

/-- A command in the syntax of R57, operands in the source functions' argument order. -/
def commandText : Instr → String
  | .pulse f => "PULSE " ++ operandText f
  | .bit f b => "BIT " ++ operandText f ++ ", " ++ operandText b.toNat
  | .byte f d => "BYTE " ++ operandText f ++ ", " ++ operandText d
  | .shdr f => "SHDR " ++ operandText f
  | .lhdr f => "LHDR " ++ operandText f
  | .flush => "FLUSH"
  | .openBuf w r => "OPEN " ++ operandText w ++ ", " ++ operandText r

/-- A line in the syntax of R57. -/
def Line.text : Line → String
  | .command i => commandText i
  | .word w => ".word " ++ operandText w.toNat
  | .read r => "READ " ++ r.name

/-! ### Reading a line's text -/

/-- The value of a digit, `0` to `9`, `a` to `f`, `A` to `F`. -/
def digitValue (c : Char) : Option Nat :=
  if '0'.toNat ≤ c.toNat ∧ c.toNat ≤ '9'.toNat then some (c.toNat - '0'.toNat)
  else if 'a'.toNat ≤ c.toNat ∧ c.toNat ≤ 'f'.toNat then some (c.toNat - 'a'.toNat + 10)
  else if 'A'.toNat ≤ c.toNat ∧ c.toNat ≤ 'F'.toNat then some (c.toNat - 'A'.toNat + 10)
  else none

/-- The digits of a number in a base, after the value read so far. -/
def digitsValue (base : Nat) : List Char → Nat → Option Nat
  | [], value => some value
  | c :: rest, value =>
    match digitValue c with
    | some d => if d < base then digitsValue base rest (value * base + d) else none
    | none => none

/-- A number, decimal or `0x` hexadecimal (R57). -/
def numberOf : List Char → Option Nat
  | [] => none
  | ['0', 'x'] => none
  | '0' :: 'x' :: digits => digitsValue 16 digits 0
  | c :: rest => digitsValue 10 (c :: rest) 0

/-- The words of a line, each comma a word of its own, a `;` and what follows it left out. -/
def wordsOf : List Char → List Char → List (List Char)
  | [], current => if current = [] then [] else [current]
  | c :: rest, current =>
    let before := if current = [] then [] else [current]
    if c = ';' then before
    else if c = ' ' then before ++ wordsOf rest []
    else if c = ',' then before ++ [[',']] ++ wordsOf rest []
    else wordsOf rest (current ++ [c])

/-- A command, kept only when its operands are in range (R57's comments, R53). -/
def inRange (i : Instr) : Option Line := if i.wf then some (.command i) else none

/-- The bit operand of BIT (R57: 0 or 1). -/
def bitOf (n : Nat) : Option Bool :=
  match n with
  | 0 => some false
  | 1 => some true
  | _ => none

/-- The register of a `READ` line (R57). -/
def readRegOf (name : List Char) : Option ReadReg :=
  if name = ['S', 'T', 'A', 'T', 'U', 'S'] then some .status
  else if name = ['C', 'F', 'G'] then some .cfg
  else if name = ['E', 'M', 'I', 'T', 'T', 'E', 'D'] then some .emitted
  else if name = ['P', 'U', 'L', 'S', 'E', 'S'] then some .pulses
  else if name = ['E', 'R', 'R', 'I', 'N', 'F', 'O'] then some .errinfo
  else none

/-- A line with one number (R57). -/
def oneNumberLine (mnemonic : List Char) (n : Nat) : Option Line :=
  if mnemonic = ['P', 'U', 'L', 'S', 'E'] then inRange (.pulse n)
  else if mnemonic = ['S', 'H', 'D', 'R'] then inRange (.shdr n)
  else if mnemonic = ['L', 'H', 'D', 'R'] then inRange (.lhdr n)
  else if mnemonic = ['.', 'w', 'o', 'r', 'd'] then if n < 2 ^ 32 then some (.word (BitVec.ofNat 32 n)) else none
  else none

/-- A line with two numbers (R57). -/
def twoNumberLine (mnemonic : List Char) (a b : Nat) : Option Line :=
  if mnemonic = ['O', 'P', 'E', 'N'] then inRange (.openBuf a b)
  else if mnemonic = ['B', 'Y', 'T', 'E'] then inRange (.byte a b)
  else if mnemonic = ['B', 'I', 'T'] then (bitOf b).bind (fun bit => inRange (.bit a bit))
  else none

/-- The line whose text this is, if it is one (R57). -/
def readLine (text : List Char) : Option Line :=
  match wordsOf text [] with
  | [mnemonic] => if mnemonic = ['F', 'L', 'U', 'S', 'H'] then some (.command .flush) else none
  | [mnemonic, a] =>
    if mnemonic = ['R', 'E', 'A', 'D'] then (readRegOf a).map .read
    else (numberOf a).bind (oneNumberLine mnemonic)
  | [mnemonic, a, [','], b] => (numberOf a).bind (fun x => (numberOf b).bind (twoNumberLine mnemonic x))
  | _ => none

/-! ### Running commands -/

/-- Commands executed one after another, each to completion before the next (R14, R36). -/
def execAll : List Instr → State → Result
  | [], s => .next s
  | i :: rest, s =>
    match exec i s with
    | .next t => execAll rest t
    | .fault r => .fault r
    | .refused r => .refused r

end Sys2Proof.Machine
end

