-- ==== Sys2Proof/Machine/HostSequences.lean ====
section
/-! DEFINITION. Macros over the seven commands: the pseudo-instructions of `30_encoding.md` R58 and the host's `encode_audio`
sequence of `44_host_sequences.md` (R120 to R123). They are the host's; nothing in the block depends on them (R103). -/

namespace Sys2Proof.Machine

/-- `BIT f, b` as PULSE commands (R58). -/
def bitAsPulses (f : Nat) (b : Bool) : List Instr :=
  if b then [.pulse (2 * f), .pulse (2 * f)] else [.pulse f]

/-- `BYTE f, d` as BIT commands (R58): start bit, data bits least significant first, two stop bits. -/
def byteAsBits (f d : Nat) : List Instr := (byteSlots d).map (.bit f)

/-- `LHDR f` as SHDR commands (R58). -/
def longHeaderAsShort (f : Nat) : List Instr := [.shdr f, .shdr f, .shdr f, .shdr f]

/-- `SHDR f` as PULSE commands (R58). -/
def shortHeaderAsPulses (f : Nat) : List Instr := List.replicate (hdrCount f) (.pulse (2 * f))

/-- `SHDR f` as BIT commands (R58). -/
def shortHeaderAsBits (f : Nat) : List Instr := List.replicate (hdrCount f) (.bit (2 * f) false)

/-- The kinds of a block (R121). -/
inductive BlockKind where
  | basic
  | ascii
  | binary
  | custom
deriving DecidableEq, Repr

/-- The type byte of a kind (R121); CUSTOM has none. -/
def BlockKind.typeByte : BlockKind → Option Nat
  | .basic => some 0xD3
  | .ascii => some 0xEA
  | .binary => some 0xD0
  | .custom => none

/-- A file name: six characters, always six (R121). -/
abbrev FileName := Vector Byte 6

/-- A name of at most six characters, padded with spaces to six (R121); a longer one is no file name. -/
def padFileName (name : List Byte) : Option FileName :=
  if name.length ≤ 6 then
    some #v[name.getD 0 0x20, name.getD 1 0x20, name.getD 2 0x20, name.getD 3 0x20, name.getD 4 0x20, name.getD 5 0x20]
  else none

/-- The three addresses of a BINARY block (R121), 16-bit unsigned. -/
structure LoadAddresses where
  startAddress : BitVec 16
  endAddress : BitVec 16
  runAddress : BitVec 16
deriving DecidableEq, Repr

/-- A block as far as the sequence needs it (R121): the file name is present for the three typed kinds only, the addresses
for BINARY only. -/
inductive Block where
  | basic (filename : FileName) (payload : List Byte)
  | ascii (filename : FileName) (payload : List Byte)
  | binary (filename : FileName) (payload : List Byte) (addresses : LoadAddresses)
  | custom (payload : List Byte)
deriving DecidableEq, Repr

/-- The block's `kind` (R121). -/
def Block.kind : Block → BlockKind
  | .basic _ _ => .basic
  | .ascii _ _ => .ascii
  | .binary _ _ _ => .binary
  | .custom _ => .custom

/-- The block's `payload` (R121). -/
def Block.payload : Block → List Byte
  | .basic _ payload => payload
  | .ascii _ payload => payload
  | .binary _ payload _ => payload
  | .custom payload => payload

/-- The block's `filename`, where its kind has one (R121). -/
def Block.filename : Block → Option FileName
  | .basic filename _ => some filename
  | .ascii filename _ => some filename
  | .binary filename _ _ => some filename
  | .custom _ => none

/-- The block's three addresses, which only a BINARY block has (R121). -/
def Block.addresses : Block → Option LoadAddresses
  | .basic _ _ => none
  | .ascii _ _ => none
  | .binary _ _ addresses => some addresses
  | .custom _ => none

/-- `lo(a)`, `hi(a)`: an address as its two little-endian bytes (R122). -/
def addressBytes (a : BitVec 16) : List Nat := [a.toNat % 256, a.toNat / 256]

/-- `BYTES f, xs` (R122). -/
def bytesAt (f : Nat) (xs : List Nat) : List Instr := xs.map (.byte f)

/-- The type marker, ten times the type byte of the kind, then the six bytes of the file name, then a short header (R122). -/
def typedLead (f typeByte : Nat) (filename : FileName) : List Instr :=
  bytesAt f (List.replicate 10 typeByte) ++ bytesAt f (filename.toList.map BitVec.toNat) ++ [.shdr f]

/-- The six address bytes of a BINARY block: start, end, run (R121, R122). -/
def addressLead (f : Nat) (a : LoadAddresses) : List Instr :=
  bytesAt f (addressBytes a.startAddress ++ addressBytes a.endAddress ++ addressBytes a.runAddress)

/-- What the host sends between a block's long header and its payload (R122); nothing for CUSTOM. -/
def blockLead (f : Nat) (b : Block) : List Instr :=
  (match b.kind.typeByte, b.filename with
    | some typeByte, some filename => typedLead f typeByte filename
    | _, _ => [])
  ++ (match b.addresses with
    | some addresses => addressLead f addresses
    | none => [])

/-- The commands of one block (R122): the long header of the loop, then what its kind asks for. -/
def blockCommands (f : Nat) (b : Block) : List Instr :=
  [.lhdr f] ++ blockLead f b ++ bytesAt f (b.payload.map BitVec.toNat)

/-- `ENCODE_AUDIO(archive, f, w, s)` (R122): one session for the archive, a long header before every block. -/
def encodeAudio (archive : List Block) (f w srate : Nat) : List Instr :=
  [.openBuf w srate] ++ archive.flatMap (blockCommands f) ++ [.flush]

end Sys2Proof.Machine
end

