-- ==== Sys2Proof/Safety.lean ====
section
/-! DEFINITION. The terms claims are stated in: the output stream read as sessions (R32), the invariant of `10_state.md` R24,
the grid of a tone (R9), and what a list of pulses comes to when every one of them fits. -/

namespace Sys2Proof.Machine

/-! ### The stream as sessions -/

/-- One session's PCM data and the `End` item that closed it (R32, R118). -/
structure ClosedSession where
  data : List Byte
  channels : Nat
  width : BitVec 3
  srate : BitVec 24
  flt : Bool
deriving DecidableEq, Repr

/-- The stream cut at its `End` items: the sessions closed so far, oldest first, and the bytes since the last `End`. -/
structure Sessions where
  closed : List ClosedSession
  current : List Byte
deriving DecidableEq, Repr

/-- One more item of the stream. -/
def Sessions.push (t : Sessions) : Item → Sessions
  | .byte b => { t with current := t.current ++ [b] }
  | .endItem c w r f => { closed := t.closed ++ [⟨t.current, c, w, r, f⟩], current := [] }

/-- The items between one `End` (or the start of the run) and the next are one session's PCM data (R32). -/
def sessionsOf (out : List Item) : Sessions := out.foldl Sessions.push ⟨[], []⟩

/-- A closed session as R117 and R118 leave it: mono, a legal configuration, whole samples, an even number of bytes. -/
structure ClosedSession.Sound (c : ClosedSession) : Prop where
  mono : c.channels = 1
  widthLegal : Config.WidthLegal c.width.toNat
  rateLegal : 1 ≤ c.srate.toNat
  evenBytes : c.data.length % 2 = 0
  wholeSamples : c.data.length % c.width.toNat = 0

/-- The number of pad bytes FLUSH adds to a session of this width and sample count (R117). -/
def padCount (width emitted : Nat) : Nat := if width = 1 ∧ emitted % 2 = 1 then 1 else 0

/-! ### The invariant of R24 -/

/-- R24, with what R32, R117 and R118 say of the sessions that are closed. -/
structure State.Inv (s : State) : Prop where
  /-- R24 item 1. -/
  widthLegal : Config.WidthLegal s.width.toNat
  /-- R24 item 1. -/
  rateLegal : 1 ≤ s.srate.toNat
  /-- R24 item 2. -/
  causeRange : s.cause.toNat ≤ 5
  /-- R24 item 2. -/
  errinfoZero : s.cause = 0#4 → s.errinfo = 0
  /-- R24 item 3; that `EMITTED <= 2^32 - 1` is its width. -/
  pulsesBound : 2 * s.pulses.toNat ≤ s.emitted.toNat
  /-- R24 item 4, while the session is open. -/
  openBytes : s.session = .opened → (sessionsOf s.out).current.length = s.width.toNat * s.emitted.toNat
  /-- No data stands after the last `End` while no session is open (R110). -/
  closedQuiet : s.session = .closed → (sessionsOf s.out).current = []
  /-- R24 item 5: no OPEN has succeeded in this run. -/
  neverOpened : s.session = .closed → (sessionsOf s.out).closed = [] → s.emitted = 0 ∧ s.pulses = 0
  /-- R24 items 4 and 6: between a FLUSH and the next OPEN the counters and the configuration are the closed session's. -/
  lastClosed : s.session = .closed → ∀ c, (sessionsOf s.out).closed.getLast? = some c →
    c.width = s.width ∧ c.srate = s.srate ∧
      c.data.length = s.width.toNat * s.emitted.toNat + padCount s.width.toNat s.emitted.toNat
  /-- Every session closed so far is sound (R117, R118). -/
  closedSound : ∀ c ∈ (sessionsOf s.out).closed, c.Sound

/-! ### Samples -/

/-- Width 1: every byte is the minimum or the maximum level (R76, R77). -/
def levels8 (bs : List Byte) : Bool := bs.all (fun b => b == 0x00 || b == 0xFF)

/-- Width 2: the bytes are pairs, each the minimum or the maximum level, low byte first (R76, R77). -/
def levels16 : List Byte → Bool
  | [] => true
  | [_] => false
  | a :: b :: rest => ((a == 0x00 && b == 0x80) || (a == 0xFF && b == 0x7F)) && levels16 rest

/-- The bytes are whole samples of the width, each at one of the two levels. -/
def onlyLevels (w : BitVec 3) (bs : List Byte) : Bool := if w = 1#3 then levels8 bs else levels16 bs

/-- Every sample of every session is `LO` or `HI` (R76). -/
structure State.TwoLevel (s : State) : Prop where
  widthLegal : Config.WidthLegal s.width.toNat
  closedSessions : ∀ c ∈ (sessionsOf s.out).closed, onlyLevels c.width c.data = true
  openSession : s.session = .opened → onlyLevels s.width (sessionsOf s.out).current = true
  closedQuiet : s.session = .closed → (sessionsOf s.out).current = []

/-! ### Pulses that fit -/

/-- The samples of the next pulse at `fp` when `emitted` samples have been emitted (R78: `end - start`). -/
def pulseSamples (srate fp emitted : Nat) : Nat := lowSamples srate fp emitted + highSamples srate fp emitted

/-- The sample count after a list of pulses, as an exact natural number. -/
def samplesAfter (srate : Nat) : Nat → List Nat → Nat
  | emitted, [] => emitted
  | emitted, fp :: rest => samplesAfter srate (emitted + pulseSamples srate fp emitted) rest

/-- The stream items of a list of pulses: each a low run, then a high run (R78). -/
def trainItems (w : BitVec 3) (srate : Nat) : Nat → List Nat → List Item
  | _, [] => []
  | emitted, fp :: rest =>
    sampleRun w .lo (lowSamples srate fp emitted) ++ sampleRun w .hi (highSamples srate fp emitted)
      ++ trainItems w srate (emitted + pulseSamples srate fp emitted) rest

/-- The sample count of the state after a list of pulses. -/
def State.samplesAfter (s : State) (train : List Nat) : Nat :=
  Machine.samplesAfter s.srate.toNat s.emitted.toNat train

/-- The state with a list of pulses emitted in full. -/
def State.afterPulses (s : State) (train : List Nat) : State :=
  { s with
    out := s.out ++ trainItems s.width s.srate.toNat s.emitted.toNat train
    emitted := BitVec.ofNat 32 (s.samplesAfter train)
    pulses := s.pulses + BitVec.ofNat 32 train.length }

/-- An open session with no fault recorded: where the emitting commands are done (R134). -/
def State.Ready (s : State) : Prop := s.session = .opened ∧ s.cause = 0#4

/-- `EMITTED` is on the grid of `fp` at index `k` (R9). -/
def State.OnGrid (s : State) (fp k : Nat) : Prop := s.emitted.toNat = rnd (k * s.srate.toNat) fp

/-- The pulse frequencies of a command, in order; the session commands have none. -/
def pulsesOf : Instr → List Nat
  | .pulse f => [f]
  | .bit f b => slotPulses f b
  | .byte f d => bytePulses f d
  | .shdr f => shortHeaderPulses f
  | .lhdr f => longHeaderPulses f
  | .flush => []
  | .openBuf _ _ => []

/-- `Fmax` (R81): the highest pulse frequency an emitting command uses. -/
def topFreqOf : Instr → Nat
  | .pulse f => f
  | .bit f b => bitTopFreq f b
  | .byte f _ => 2 * f
  | .shdr f => 2 * f
  | .lhdr f => 2 * f
  | .flush => 0
  | .openBuf _ _ => 0

/-- The emitting commands (R81). -/
def emits : Instr → Bool
  | .pulse _ => true
  | .bit _ _ => true
  | .byte _ _ => true
  | .shdr _ => true
  | .lhdr _ => true
  | .flush => false
  | .openBuf _ _ => false

/-- The bit slots a command fills on the grid of its `F` (R85, R93): a header of `n` pulses at `2*F` fills `n / 2`. -/
def slotCount : Instr → Nat
  | .pulse _ => 1
  | .bit _ _ => 1
  | .byte _ _ => Config.bitSlotsPerByte
  | .shdr f => hdrCount f / 2
  | .lhdr f => 2 * hdrCount f
  | .flush => 0
  | .openBuf _ _ => 0

/-- BIT, BYTE and headers at one `F`, every short header of an even pulse count: what keeps a stream on the grid (R85). -/
def KeepsGrid (f : Nat) (i : Instr) : Prop :=
  (∃ b, i = .bit f b) ∨ (∃ d, i = .byte f d) ∨ (i = .shdr f ∧ hdrCount f % 2 = 0) ∨ i = .lhdr f

/-! ### `Execute` read line by line

The pseudocode of R134, R112, R117, R81, R78 and R136 as one function with every assignment written out, for the machine's
step to be compared with. It shares with the machine the decoder, the clock and the samples, and none of the operations that
accept a command, raise a fault or carry it out. -/

/-- The pulses of a command (R78), an overflow recording `EOVF` with the command word (R136). -/
def referencePulses (w : Word) : List Nat → State → State
  | [], s => s
  | fp :: rest, s =>
    let lo := lowSamples s.srate.toNat fp s.emitted.toNat
    let hi := highSamples s.srate.toNat fp s.emitted.toNat
    if s.emitted.toNat + lo + hi > 2 ^ 32 - 1 then { s with cause := 5, errinfo := w }
    else referencePulses w rest
      { s with
        out := s.out ++ sampleRun s.width .lo lo ++ sampleRun s.width .hi hi
        emitted := BitVec.ofNat 32 (s.emitted.toNat + lo + hi)
        pulses := s.pulses + 1 }

/-- FLUSH (R117). -/
def referenceFlush (s : State) : State :=
  { s with
    out := s.out ++ (if s.width = 1#3 ∧ s.emitted.toNat % 2 = 1 then [.byte 0x00] else [])
      ++ [.endItem 1 s.width s.srate (if s.cause = 0#4 then false else true)]
    session := .closed }

/-- OPEN (R112) on a closed session; its `raise ECFG` keeps an earlier fault (R136). -/
def referenceOpen (w : Word) (width srate : Nat) (s : State) : State :=
  if (width ≠ 1 ∧ width ≠ 2) ∨ srate = 0 then
    if s.cause = 0#4 then { s with cause := 1, errinfo := w } else s
  else
    { s with
      width := BitVec.ofNat 3 width
      srate := BitVec.ofNat 24 srate
      emitted := 0
      pulses := 0
      cause := 0
      errinfo := 0
      session := .opened }

/-- An emitting command on an open session with no fault recorded (R81, R79, R90, R92, R101, R102). -/
def referenceEmit (w : Word) (topFreq : Nat) (train : List Nat) (s : State) : State :=
  if topFreq = 0 ∨ 2 * topFreq > s.srate.toNat then { s with cause := 4, errinfo := w }
  else referencePulses w train s

/-- `Execute(w)` (R134). -/
def referenceExecute (w : Word) (s : State) : State :=
  if s.cause ≠ 0#4 then
    match decode w with
    | .command .flush => if s.session = .opened then referenceFlush s else s
    | .command (.openBuf width srate) => if s.session = .closed then referenceOpen w width srate s else s
    | _ => s
  else
    match decode w with
    | .illegal _ => { s with cause := 3, errinfo := w }
    | .command (.openBuf width srate) =>
      if s.session = .opened then { s with cause := 2, errinfo := w } else referenceOpen w width srate s
    | .command i =>
      if s.session = .closed then { s with cause := 2, errinfo := w }
      else if i = .flush then referenceFlush s
      else referenceEmit w (topFreqOf i) (pulsesOf i) s

end Sys2Proof.Machine
end

