-- ==== Sys2Proof/Certificates/Slice0/Obligations.lean ====
section
/-! DEFINITION. The statements for the provers, each a `Prop` named for what it states. -/

open Sys2Proof Sys2Proof.Machine

/-! ### Command words -/

/-- A few words written out from the formats of R51 and R52, one or more of every command. -/
def Obligations.WrittenWordsDecode : Prop :=
  decode 0x1004B000 = .command (.pulse 1200) ∧ decode 0x10FFFF00 = .command (.pulse 65535) ∧
  decode 0x2004B000 = .command (.bit 1200 false) ∧ decode 0x2004B001 = .command (.bit 1200 true) ∧
  decode 0x3004B0A5 = .command (.byte 1200 0xA5) ∧ decode 0x40096000 = .command (.shdr 2400) ∧
  decode 0x5004B000 = .command (.lhdr 1200) ∧ decode 0x60000000 = .command .flush ∧
  decode 0x7200BB80 = .command (.openBuf 2 48000) ∧ decode 0x77FFFFFF = .command (.openBuf 7 16777215)

/-- R54: a word is a row's command exactly when `(w AND mask) = match`, and at most one row matches. -/
def Obligations.OpcodeMapSelectsCommands : Prop :=
  (∀ w : Word,
    (w &&& 0xFF0000FF = 0x10000000 ↔ ∃ f, decode w = .command (.pulse f)) ∧
    (w &&& 0xFF0000FE = 0x20000000 ↔ ∃ f b, decode w = .command (.bit f b)) ∧
    (w &&& 0xFF000000 = 0x30000000 ↔ ∃ f d, decode w = .command (.byte f d)) ∧
    (w &&& 0xFF0000FF = 0x40000000 ↔ ∃ f, decode w = .command (.shdr f)) ∧
    (w &&& 0xFF0000FF = 0x50000000 ↔ ∃ f, decode w = .command (.lhdr f)) ∧
    (w &&& 0xFFFFFFFF = 0x60000000 ↔ decode w = .command .flush) ∧
    (w &&& 0xF8000000 = 0x70000000 ↔ ∃ width srate, decode w = .command (.openBuf width srate))) ∧
  ∀ w : Word, ∀ r₁ ∈ opcodeMap, ∀ r₂ ∈ opcodeMap, r₁.selects w = true → r₂.selects w = true → r₁ = r₂

/-- R55: what `Decode` answers, field by field, what `Encode` writes, and that each undoes the other. -/
def Obligations.DecodeAndEncodeAgree : Prop :=
  (∀ w : Word, ∀ i : Instr, decode w = .command i ↔
    (w.extractLsb 31 28 = 1 ∧ w.extractLsb 27 24 = 0 ∧ w.extractLsb 7 0 = 0 ∧ i = .pulse (w.extractLsb 23 8).toNat) ∨
    (w.extractLsb 31 28 = 2 ∧ w.extractLsb 27 24 = 0 ∧ w.extractLsb 7 1 = 0 ∧
      i = .bit (w.extractLsb 23 8).toNat (w.getLsbD 0)) ∨
    (w.extractLsb 31 28 = 3 ∧ w.extractLsb 27 24 = 0 ∧
      i = .byte (w.extractLsb 23 8).toNat (w.extractLsb 7 0).toNat) ∨
    (w.extractLsb 31 28 = 4 ∧ w.extractLsb 27 24 = 0 ∧ w.extractLsb 7 0 = 0 ∧ i = .shdr (w.extractLsb 23 8).toNat) ∨
    (w.extractLsb 31 28 = 5 ∧ w.extractLsb 27 24 = 0 ∧ w.extractLsb 7 0 = 0 ∧ i = .lhdr (w.extractLsb 23 8).toNat) ∨
    (w.extractLsb 31 28 = 6 ∧ w.extractLsb 27 0 = 0 ∧ i = .flush) ∨
    (w.extractLsb 31 28 = 7 ∧ w.getLsbD 27 = false ∧
      i = .openBuf (w.extractLsb 26 24).toNat (w.extractLsb 23 0).toNat)) ∧
  (∀ f, f < 65536 → (encode (.pulse f)).toNat = 0x10000000 + f * 256) ∧
  (∀ f b, f < 65536 → (encode (.bit f b)).toNat = 0x20000000 + f * 256 + (if b then 1 else 0)) ∧
  (∀ f d, f < 65536 → d < 256 → (encode (.byte f d)).toNat = 0x30000000 + f * 256 + d) ∧
  (∀ f, f < 65536 → (encode (.shdr f)).toNat = 0x40000000 + f * 256) ∧
  (∀ f, f < 65536 → (encode (.lhdr f)).toNat = 0x50000000 + f * 256) ∧
  (encode .flush).toNat = 0x60000000 ∧
  (∀ w r, w < 8 → r < 2 ^ 24 → (encode (.openBuf w r)).toNat = 0x70000000 + w * 2 ^ 24 + r) ∧
  (∀ i : Instr, i.wf = true → decode (encode i) = .command i) ∧
  (∀ w : Word, ∀ i : Instr, decode w = .command i → i.wf = true ∧ encode i = w)

/-- R56: which words are illegal, that such a word emits nothing and raises `EILL` with the word in `ERRINFO`, and that it is
discarded while a fault is recorded. -/
def Obligations.IllegalWordsRaiseEill : Prop :=
  (∀ w : Word, (∃ why, decode w = .illegal why) ↔
    (w.extractLsb 31 28 = 0 ∨ 8 ≤ (w.extractLsb 31 28).toNat ∨
      (1 ≤ (w.extractLsb 31 28).toNat ∧ (w.extractLsb 31 28).toNat ≤ 6 ∧ w.extractLsb 27 24 ≠ 0) ∨
      ((w.extractLsb 31 28 = 1 ∨ w.extractLsb 31 28 = 4 ∨ w.extractLsb 31 28 = 5) ∧ w.extractLsb 7 0 ≠ 0) ∨
      (w.extractLsb 31 28 = 2 ∧ w.extractLsb 7 1 ≠ 0) ∨
      (w.extractLsb 31 28 = 6 ∧ w.extractLsb 27 0 ≠ 0) ∨
      (w.extractLsb 31 28 = 7 ∧ w.getLsbD 27 = true))) ∧
  (∀ s w rest why, s.inbox = cmdWrite w :: rest → decode w = .illegal why →
    step s = .next (if s.cause = 0#4 then { s with inbox := rest, cause := 3, errinfo := w } else { s with inbox := rest }))

/-- A word that decodes runs its command on the state whose next input has been taken. -/
def Obligations.StepRunsDecodedCommand : Prop :=
  ∀ s w rest i, s.inbox = cmdWrite w :: rest → decode w = .command i → step s = exec i { s with inbox := rest }

/-- The model's convention of log entry 1: a placed word is the very next input, and the step runs its command on the state as
it was. -/
def Obligations.PlacedWordRunsNext : Prop :=
  ∀ s w i, w < 2 ^ 32 → decodeTableWord 32 w = some i → step (s.withFetchWord 32 w) = exec i s

/-- A host program's next line (R57): a command line runs the command it was assembled from, a `.word` line executes the
word, a `READ` line is answered with the register. -/
def Obligations.AssembledLinesRun : Prop :=
  (∀ s i rest, i.wf = true → s.inbox = assemble (.command i :: rest) → step s = exec i { s with inbox := assemble rest }) ∧
  (∀ s w rest, s.inbox = assemble (.word w :: rest) → step s = execute w { s with inbox := assemble rest }) ∧
  (∀ s r rest, s.inbox = assemble (.read r :: rest) →
    step s = .next { s with
      inbox := assemble rest
      answers := s.answers ++ [match r with
        | .status => statusWord s
        | .cfg => cfgWord s
        | .emitted => s.emitted
        | .pulses => s.pulses
        | .errinfo => s.errinfo] })

/-! ### Acceptance and faults -/

/-- R134: the step on a `CMD` write is `Execute`, read line by line. -/
def Obligations.StepIsExecuteLineByLine : Prop :=
  ∀ s w rest, s.inbox = cmdWrite w :: rest → step s = .next (referenceExecute w { s with inbox := rest })

/-- The examples of R134's priority order, each on a state that meets both conditions. -/
def Obligations.PriorityExamplesHold : Prop :=
  ∀ s rest,
    (s.cause = 0#4 → s.session = .closed → s.inbox = cmdWrite 0xFFFFFFFF :: rest →
      step s = .next { s with inbox := rest, cause := 3, errinfo := 0xFFFFFFFF }) ∧
    (s.cause = 0#4 → s.session = .closed → s.inbox = cmdWrite 0x10000000 :: rest →
      step s = .next { s with inbox := rest, cause := 2, errinfo := 0x10000000 }) ∧
    (s.cause = 0#4 → s.session = .opened → s.inbox = cmdWrite 0x73000000 :: rest →
      step s = .next { s with inbox := rest, cause := 2, errinfo := 0x73000000 }) ∧
    (s.cause = 0#4 → s.session = .opened → s.emitted = 0xFFFFFFFF → s.inbox = cmdWrite 0x30000055 :: rest →
      step s = .next { s with inbox := rest, cause := 4, errinfo := 0x30000055 })

/-- R131: an illegal word with no fault recorded raises `EILL`, in either session state. -/
def Obligations.IllegalCommandRecordsEill : Prop :=
  ∀ s w rest why, s.inbox = cmdWrite w :: rest → s.cause = 0#4 → decode w = .illegal why →
    ∃ t, step s = .next t ∧ t.cause = 3 ∧ t.errinfo = w ∧ t.out = s.out ∧ t.session = s.session

/-- R132: with no fault recorded, a command that does not fit the session state raises `ESEQ` and does nothing else. -/
def Obligations.SequenceErrorRecordsEseq : Prop :=
  ∀ s w rest i, s.inbox = cmdWrite w :: rest → s.cause = 0#4 → decode w = .command i →
    ((∃ width srate, i = .openBuf width srate) ∧ s.session = .opened ∨
      (∀ width srate, i ≠ .openBuf width srate) ∧ s.session = .closed) →
    step s = .next { s with inbox := rest, cause := 2, errinfo := w }

/-- R135: while a fault is recorded every word is discarded, but for FLUSH on an open session and OPEN on a closed one. -/
def Obligations.RecordedFaultDiscards : Prop :=
  ∀ s w rest, s.cause ≠ 0#4 → s.inbox = cmdWrite w :: rest →
    ((decode w ≠ .command .flush ∨ s.session = .closed) →
      ((∀ width srate, decode w ≠ .command (.openBuf width srate)) ∨ s.session = .opened) →
      step s = .next { s with inbox := rest }) ∧
    (decode w = .command .flush → s.session = .opened →
      step s = .next (referenceFlush { s with inbox := rest })) ∧
    (∀ width srate, decode w = .command (.openBuf width srate) → s.session = .closed →
      step s = .next (referenceOpen w width srate { s with inbox := rest }))

/-- R136: what a raise writes, that it keeps an earlier fault, the one case in which that matters, and that the
rest of the command is abandoned. -/
def Obligations.FirstFaultIsKept : Prop :=
  (∀ c w s, s.cause = 0#4 → raise c w s = { s with cause := c.code, errinfo := w }) ∧
  (∀ c w s, s.cause ≠ 0#4 → raise c w s = s) ∧
  (∀ width srate s, s.cause ≠ 0#4 → s.session = .closed → (width ≠ 1 ∧ width ≠ 2) ∨ srate = 0 →
    exec (.openBuf width srate) s = .next s) ∧
  (∀ i s t, exec i s = .next t → t.cause ≠ s.cause → s.cause = 0#4 ∨ t.cause = 0#4) ∧
  (∀ w fp rest s, emitPulse fp s = none → emitPulses w (fp :: rest) s = raise .eovf w s)

/-- R137: faults are precise at pulse granularity. -/
def Obligations.FaultsArePrecise : Prop :=
  ∀ s w rest t, s.inbox = cmdWrite w :: rest → s.cause = 0#4 → step s = .next t → t.cause ≠ 0#4 →
    (t.cause ≠ 5 ∧ t = { s with inbox := rest, cause := t.cause, errinfo := w }) ∨
    (t.cause = 5 ∧ ∃ i n, decode w = .command i ∧ n < (pulsesOf i).length ∧
      s.samplesAfter ((pulsesOf i).take n) ≤ 2 ^ 32 - 1 ∧
      2 ^ 32 - 1 < s.samplesAfter ((pulsesOf i).take (n + 1)) ∧
      t = { s.afterPulses ((pulsesOf i).take n) with inbox := rest, cause := 5, errinfo := w } ∧
      t.pulses = s.pulses + BitVec.ofNat 32 n)

/-- R130: which fault a command word records, and when. -/
def Obligations.EveryFaultHasItsCause : Prop :=
  ∀ s w rest t, s.inbox = cmdWrite w :: rest → s.cause = 0#4 → step s = .next t → t.cause ≠ 0#4 →
    t.errinfo = w ∧
    ((t.cause = 1 ∧ ∃ width srate, decode w = .command (.openBuf width srate) ∧ s.session = .closed ∧
        ((width ≠ 1 ∧ width ≠ 2) ∨ srate = 0)) ∨
      (t.cause = 2 ∧ ∃ i, decode w = .command i ∧
        ((∃ width srate, i = .openBuf width srate) ∧ s.session = .opened ∨
          (∀ width srate, i ≠ .openBuf width srate) ∧ s.session = .closed)) ∨
      (t.cause = 3 ∧ ∃ why, decode w = .illegal why) ∨
      (t.cause = 4 ∧ ∃ i, decode w = .command i ∧ emits i = true ∧ s.session = .opened ∧
        (topFreqOf i = 0 ∨ 2 * topFreqOf i > s.srate.toNat)) ∨
      (t.cause = 5 ∧ ∃ i, decode w = .command i ∧ emits i = true ∧ s.session = .opened ∧
        2 ^ 32 - 1 < s.samplesAfter (pulsesOf i)))

/-- R140: a recorded fault stays until a successful OPEN or a reset, and the way back to normal operation. -/
def Obligations.FaultLeftOnlyByOpenOrReset : Prop :=
  (∀ s t, s.cause ≠ 0#4 → step s = .next t →
    (t.cause = s.cause ∧ t.errinfo = s.errinfo) ∨
    (t.cause = 0#4 ∧ t.errinfo = 0 ∧
      ((∃ rest, s.inbox = .reset :: rest) ∨
        ∃ w rest width srate, s.inbox = cmdWrite w :: rest ∧ decode w = .command (.openBuf width srate) ∧
          s.session = .closed ∧ (width = 1 ∨ width = 2) ∧ srate ≠ 0 ∧ t.session = .opened))) ∧
  (∀ s width srate, s.cause ≠ 0#4 → s.session = .opened → (width = 1 ∨ width = 2) → srate ≠ 0 →
    ∃ u t, exec .flush s = .next u ∧ u.session = .closed ∧ u.out.getLast? = some (.endItem 1 s.width s.srate true) ∧
      exec (.openBuf width srate) u = .next t ∧ t.session = .opened ∧ t.cause = 0#4 ∧ t.errinfo = 0 ∧ t.emitted = 0 ∧
      t.pulses = 0 ∧ t.out = u.out) ∧
  (∀ s width srate, s.cause ≠ 0#4 → s.session = .closed → (width = 1 ∨ width = 2) → srate ≠ 0 →
    ∃ t, exec (.openBuf width srate) s = .next t ∧ t.session = .opened ∧ t.cause = 0#4 ∧ t.errinfo = 0)

/-- R81: when an emitting command raises `EFREQ`, command by command, with nothing emitted, and why one check is enough. -/
def Obligations.FrequencyCheckDecidesEfreq : Prop :=
  (∀ s i t, s.Ready → emits i = true → exec i s = .next t →
    ((t.cause = 4 ↔ topFreqOf i = 0 ∨ 2 * topFreqOf i > s.srate.toNat) ∧
      (t.cause = 4 → t = { s with cause := 4, errinfo := encode i }))) ∧
  (∀ f b d, topFreqOf (.pulse f) = f ∧ topFreqOf (.bit f false) = f ∧ topFreqOf (.bit f true) = 2 * f ∧
    topFreqOf (.byte f d) = 2 * f ∧ topFreqOf (.shdr f) = 2 * f ∧ topFreqOf (.lhdr f) = 2 * f ∧
    emits (.pulse f) = true ∧ emits (.bit f b) = true ∧ emits (.byte f d) = true ∧ emits (.shdr f) = true ∧
    emits (.lhdr f) = true) ∧
  (∀ fx r, freqOk fx r = true ↔ 1 ≤ fx ∧ 2 * fx ≤ r.toNat) ∧
  (∀ f r, freqOk (2 * f) r = true → freqOk f r = true) ∧
  (∀ i r, emits i = true → freqOk (topFreqOf i) r = true → ∀ fp ∈ pulsesOf i, freqOk fp r = true)

/-- R142: every input has a next state, an emitting command never clears a fault, every command is a bounded number of
pulses, and `flt` says at FLUSH whether a fault is recorded. That the consumer accepts every item is an assumption, log entry 5. -/
def Obligations.NothingIsEverStuck : Prop :=
  (∀ s, ∃ t, step s = .next t) ∧
  (∀ i s, ∃ t, exec i s = .next t) ∧
  (∀ i s t, emits i = true → s.cause ≠ 0#4 → exec i s = .next t → t.cause = s.cause) ∧
  (∀ i : Instr, i.wf = true → (pulsesOf i).length ≤ 873800) ∧
  (∀ s t, s.session = .opened → exec .flush s = .next t →
    ∃ flt, t.out.getLast? = some (.endItem 1 s.width s.srate flt) ∧ (flt = false ↔ s.cause = 0#4))

/-! ### The tone clock -/

/-- R70: the rounded quotient and its laws. -/
def Obligations.RoundedQuotientIsNearest : Prop :=
  (∀ a b, 1 ≤ b →
    (2 * (a % b) < b → rnd a b = a / b) ∧ (b < 2 * (a % b) → rnd a b = a / b + 1) ∧
    (2 * (a % b) = b → rnd a b % 2 = 0 ∧ (rnd a b = a / b ∨ rnd a b = a / b + 1))) ∧
  (∀ a a' b, 1 ≤ b → a ≤ a' → rnd a b ≤ rnd a' b) ∧
  (∀ k b, 1 ≤ b → rnd (k * b) b = k) ∧
  (∀ a b c, 1 ≤ b → 1 ≤ c → rnd (c * a) (c * b) = rnd a b) ∧
  (∀ a b, 1 ≤ b → 2 * a ≤ 2 * b * rnd a b + b ∧ 2 * b * rnd a b ≤ 2 * a + b)

/-- R73: the boundaries of a pulse, their order, and that consecutive pulses tile the sample axis. -/
def Obligations.PulseBoundariesTile : Prop :=
  ∀ S fp p, 1 ≤ fp →
    pulseStart S fp p = rnd (2 * p * S) (2 * fp) ∧
    pulseMid S fp p = rnd ((2 * p + 1) * S) (2 * fp) ∧
    pulseEnd S fp p = rnd ((2 * p + 2) * S) (2 * fp) ∧
    pulseStart S fp p ≤ pulseMid S fp p ∧ pulseMid S fp p ≤ pulseEnd S fp p ∧
    pulseEnd S fp p = pulseStart S fp (p + 1)

/-- R75: every boundary is within half a sample of its ideal value, for every index. -/
def Obligations.BoundariesWithinHalfSample : Prop :=
  ∀ S fp p, 1 ≤ fp →
    (2 * (p * S) ≤ 2 * fp * pulseStart S fp p + fp ∧ 2 * fp * pulseStart S fp p ≤ 2 * (p * S) + fp) ∧
    ((2 * p + 1) * S ≤ 2 * fp * pulseMid S fp p + fp ∧ 2 * fp * pulseMid S fp p ≤ (2 * p + 1) * S + fp) ∧
    (2 * ((p + 1) * S) ≤ 2 * fp * pulseEnd S fp p + fp ∧ 2 * fp * pulseEnd S fp p ≤ 2 * ((p + 1) * S) + fp)

/-- R82: every legal pulse has both halves. -/
def Obligations.LegalPulseHasBothHalves : Prop :=
  ∀ S fp p, 1 ≤ fp → 2 * fp ≤ S →
    pulseStart S fp p + 1 ≤ pulseMid S fp p ∧ pulseMid S fp p + 1 ≤ pulseEnd S fp p ∧
    pulseStart S fp p + 2 ≤ pulseEnd S fp p

/-- R83: the length of a pulse and of its halves. -/
def Obligations.PulseLengthIsFloorOrCeil : Prop :=
  ∀ S fp p, 1 ≤ fp →
    (pulseEnd S fp p - pulseStart S fp p = S / fp ∨ pulseEnd S fp p - pulseStart S fp p = (S + fp - 1) / fp) ∧
    (S % fp = 0 → pulseEnd S fp p - pulseStart S fp p = S / fp) ∧
    (pulseMid S fp p - pulseStart S fp p = S / (2 * fp) ∨
      pulseMid S fp p - pulseStart S fp p = (S + 2 * fp - 1) / (2 * fp)) ∧
    (pulseEnd S fp p - pulseMid S fp p = S / (2 * fp) ∨
      pulseEnd S fp p - pulseMid S fp p = (S + 2 * fp - 1) / (2 * fp))

/-- R80: the sizes of the intermediates. -/
def Obligations.IntermediatesFit : Prop :=
  ∀ S fp E, S < 2 ^ 24 → fp < 2 ^ 17 → E ≤ 2 ^ 32 - 1 → 1 ≤ fp → 2 * fp ≤ S →
    E * fp < 2 ^ 49 ∧ 2 * pulseIndex S fp E ≤ E + 1 ∧ pulseIndex S fp E ≤ 2 ^ 31 ∧
    (2 * pulseIndex S fp E + 2) * S < 2 ^ 57 ∧ 2 * fp < 2 ^ 18 ∧
    (∀ x, x = pulseStart S fp (pulseIndex S fp E) ∨ x = pulseMid S fp (pulseIndex S fp E) ∨
        x = pulseEnd S fp (pulseIndex S fp E) →
      x < 2 ^ 34 ∧ x * fp ≤ E * fp + 2 * S ∧ E * fp ≤ x * fp + 2 * S) ∧
    pulseSamples S fp E ≤ (S + fp - 1) / fp ∧ pulseSamples S fp E < 2 ^ 24

/-- The index picked off the grid is that of the nearest ideal start, and an exact half goes to the even index. -/
def Obligations.OffGridIndexIsNearest : Prop :=
  (∀ S fp E, 1 ≤ S →
    2 * (E * fp) ≤ 2 * (pulseIndex S fp E * S) + S ∧ 2 * (pulseIndex S fp E * S) ≤ 2 * (E * fp) + S) ∧
  (∀ S fp E, 1 ≤ S → 2 * (E * fp % S) = S → pulseIndex S fp E % 2 = 0) ∧
  pulseIndex 48000 1200 20 = 0

/-! ### What each command emits -/

/-- PULSE in an open session with no fault, a legal frequency and room for the pulse: the boundaries of R72 and R73, a low run
and a high run. -/
def Obligations.PulseEmitsOneToneCycle : Prop :=
  ∀ s f, s.Ready → 1 ≤ f → 2 * f ≤ s.srate.toNat →
    let S := s.srate.toNat
    let E := s.emitted.toNat
    let p := rnd (E * f) S
    let start := rnd (2 * p * S) (2 * f)
    let mid := rnd ((2 * p + 1) * S) (2 * f)
    let stop := rnd ((2 * p + 2) * S) (2 * f)
    E + (mid - start) + (stop - mid) ≤ 2 ^ 32 - 1 →
    exec (.pulse f) s = .next { s with
      out := s.out ++ sampleRun s.width .lo (mid - start) ++ sampleRun s.width .hi (stop - mid)
      emitted := BitVec.ofNat 32 (E + (mid - start) + (stop - mid))
      pulses := s.pulses + 1 }

/-- BIT: one pulse at `F` for 0, two at `2*F` for 1, with the check that bit value needs. -/
def Obligations.BitEmitsOneOrTwoPulses : Prop :=
  (∀ s f, s.Ready → 1 ≤ f → 2 * f ≤ s.srate.toNat → s.samplesAfter [f] ≤ 2 ^ 32 - 1 →
    exec (.bit f false) s = .next (s.afterPulses [f]) ∧ (s.afterPulses [f]).pulses = s.pulses + 1) ∧
  (∀ s f, s.Ready → 1 ≤ f → 4 * f ≤ s.srate.toNat → s.samplesAfter [2 * f, 2 * f] ≤ 2 ^ 32 - 1 →
    exec (.bit f true) s = .next (s.afterPulses [2 * f, 2 * f]) ∧
    (s.afterPulses [2 * f, 2 * f]).pulses = s.pulses + 2)

/-- BYTE: a start bit, the eight data bits least significant first, two stop bits, `13 + popcount(D)` pulses. -/
def Obligations.ByteEmitsElevenSlots : Prop :=
  ∀ s f (d : BitVec 8), s.Ready → 1 ≤ f → 4 * f ≤ s.srate.toNat →
    let slots := [false, d.getLsbD 0, d.getLsbD 1, d.getLsbD 2, d.getLsbD 3, d.getLsbD 4, d.getLsbD 5, d.getLsbD 6,
      d.getLsbD 7, true, true]
    let train := slots.flatMap (fun b => if b then [2 * f, 2 * f] else [f])
    let popcount := ((List.range 8).filter (fun k => d.getLsbD k)).length
    slots.length = 11 ∧ train.length = 13 + popcount ∧
    (s.samplesAfter train ≤ 2 ^ 32 - 1 →
      exec (.byte f d.toNat) s = .next (s.afterPulses train) ∧
      (s.afterPulses train).pulses = s.pulses + BitVec.ofNat 32 (13 + popcount))

/-- SHDR: `HdrCount(F)` pulses at `2*F`. -/
def Obligations.ShortHeaderEmitsItsPulses : Prop :=
  ∀ s f, s.Ready → 1 ≤ f → 4 * f ≤ s.srate.toNat →
    s.samplesAfter (List.replicate (rnd (4000 * f) 1200) (2 * f)) ≤ 2 ^ 32 - 1 →
    exec (.shdr f) s = .next (s.afterPulses (List.replicate (rnd (4000 * f) 1200) (2 * f))) ∧
    (s.afterPulses (List.replicate (rnd (4000 * f) 1200) (2 * f))).pulses
      = s.pulses + BitVec.ofNat 32 (rnd (4000 * f) 1200)

/-- LHDR: four times the rounded short count, not the rounded long one. -/
def Obligations.LongHeaderEmitsFourShort : Prop :=
  (∀ s f, s.Ready → 1 ≤ f → 4 * f ≤ s.srate.toNat →
    s.samplesAfter (List.replicate (4 * rnd (4000 * f) 1200) (2 * f)) ≤ 2 ^ 32 - 1 →
    exec (.lhdr f) s = .next (s.afterPulses (List.replicate (4 * rnd (4000 * f) 1200) (2 * f))) ∧
    (s.afterPulses (List.replicate (4 * rnd (4000 * f) 1200) (2 * f))).pulses
      = s.pulses + BitVec.ofNat 32 (4 * rnd (4000 * f) 1200)) ∧
  4 * rnd (4000 * 1201) 1200 = 16012 ∧ rnd (16000 * 1201) 1200 = 16013

/-- R100: `HdrCount(F)`, its closed form, that no tie occurs, and the values the rule lists. -/
def Obligations.HeaderCountClosedForm : Prop :=
  (∀ f, hdrCount f = rnd (4000 * f) 1200 ∧ hdrCount f = (10 * f + 1) / 3 ∧ 2 * (4000 * f % 1200) ≠ 1200) ∧
  hdrCount 1200 = 4000 ∧ hdrCount 2400 = 8000 ∧ hdrCount 1 = 3 ∧ hdrCount 600 = 2000 ∧ hdrCount 1201 = 4003 ∧
  hdrCount 65535 = 218450

/-- A short header on the grid of `2*F` moves `HdrCount(F)` indices along it. -/
def Obligations.ShortHeaderMovesAlongGrid : Prop :=
  ∀ s f q, s.Ready → 1 ≤ f → 4 * f ≤ s.srate.toNat → s.OnGrid (2 * f) q →
    rnd ((q + hdrCount f) * s.srate.toNat) (2 * f) ≤ 2 ^ 32 - 1 →
    ∃ t, exec (.shdr f) s = .next t ∧ t.OnGrid (2 * f) (q + hdrCount f) ∧
      t.emitted.toNat = s.emitted.toNat
        + (rnd ((q + hdrCount f) * s.srate.toNat) (2 * f) - rnd (q * s.srate.toNat) (2 * f))

/-- R84: on the grid a pulse finds its own index and stays on the grid, and a train of `n` pulses from the start of a session
has exactly `rnd(n*S, Fp)` samples; the formulas lose this above half the sample rate. -/
def Obligations.PulseTrainNeverDrifts : Prop :=
  (∀ s fp k, s.Ready → 1 ≤ fp → 2 * fp ≤ s.srate.toNat → s.OnGrid fp k →
    rnd ((k + 1) * s.srate.toNat) fp ≤ 2 ^ 32 - 1 →
    pulseIndex s.srate.toNat fp s.emitted.toNat = k ∧ pulseStart s.srate.toNat fp k = s.emitted.toNat ∧
    ∃ t, exec (.pulse fp) s = .next t ∧ t.OnGrid fp (k + 1)) ∧
  (∀ s fp n, s.Ready → s.emitted = 0 → s.pulses = 0 → 1 ≤ fp → 2 * fp ≤ s.srate.toNat →
    rnd (n * s.srate.toNat) fp ≤ 2 ^ 32 - 1 →
    ∃ t, execAll (List.replicate n (.pulse fp)) s = .next t ∧ t.emitted.toNat = rnd (n * s.srate.toNat) fp ∧
      t.pulses.toNat = n ∧ pulseIndex t.srate.toNat fp t.emitted.toNat = t.pulses.toNat) ∧
  samplesAfter 44100 0 (List.replicate 100 88200) = 0 ∧ rnd (100 * 44100) 88200 = 50

/-- R85: the grid of `2*F` contains the grid of `F`, and a stream of BIT, BYTE and even headers at one `F` stays on the grid
of `F`, its length after `m` slots exactly `rnd(m*S, F)`. -/
def Obligations.PhaseIsContinuous : Prop :=
  (∀ S f k, 1 ≤ f → rnd (2 * k * S) (2 * f) = rnd (k * S) f) ∧
  (∀ s f k, s.Ready → 1 ≤ f → 4 * f ≤ s.srate.toNat → s.OnGrid f k →
    rnd ((k + 1) * s.srate.toNat) f ≤ 2 ^ 32 - 1 →
    s.OnGrid (2 * f) (2 * k) ∧
    (∃ t, exec (.pulse f) s = .next t ∧ t.OnGrid f (k + 1) ∧ t.OnGrid (2 * f) (2 * (k + 1))) ∧
    (∃ t, execAll [.pulse (2 * f), .pulse (2 * f)] s = .next t ∧ t.OnGrid f (k + 1) ∧ t.OnGrid (2 * f) (2 * (k + 1)))) ∧
  (∀ f k cmds s, s.Ready → 1 ≤ f → 4 * f ≤ s.srate.toNat → s.OnGrid f k → (∀ i ∈ cmds, KeepsGrid f i) →
    rnd ((k + (cmds.map slotCount).sum) * s.srate.toNat) f ≤ 2 ^ 32 - 1 →
    ∃ t, execAll cmds s = .next t ∧ t.Ready ∧ t.OnGrid f (k + (cmds.map slotCount).sum))

/-- R91: the two bit values take equal time on the grid, and lengths that differ by at most 2 anywhere. -/
def Obligations.BitValuesTakeEqualTime : Prop :=
  (∀ s f k, s.Ready → 1 ≤ f → 4 * f ≤ s.srate.toNat → s.OnGrid f k →
    rnd ((k + 1) * s.srate.toNat) f ≤ 2 ^ 32 - 1 →
    ∃ t₀ t₁, exec (.bit f false) s = .next t₀ ∧ exec (.bit f true) s = .next t₁ ∧
      t₀.emitted.toNat - s.emitted.toNat = rnd ((k + 1) * s.srate.toNat) f - rnd (k * s.srate.toNat) f ∧
      t₁.emitted.toNat = t₀.emitted.toNat ∧ t₀.OnGrid f (k + 1) ∧ t₁.OnGrid f (k + 1)) ∧
  (∀ S f E, 1 ≤ f → 4 * f ≤ S →
    let zeroLen := samplesAfter S E [f] - E
    let first := pulseSamples S (2 * f) E
    let second := pulseSamples S (2 * f) (E + first)
    samplesAfter S E [2 * f, 2 * f] - E = first + second ∧
    (zeroLen = S / f ∨ zeroLen = (S + f - 1) / f) ∧
    (first = S / (2 * f) ∨ first = (S + 2 * f - 1) / (2 * f)) ∧
    (second = S / (2 * f) ∨ second = (S + 2 * f - 1) / (2 * f)) ∧
    zeroLen ≤ first + second + 2 ∧ first + second ≤ zeroLen + 2 ∧
    (S % (2 * f) = 0 → zeroLen = first + second))

/-- R93: a byte frame is eleven periods of `F`, whatever the data, and `m` frames never drift. -/
def Obligations.ByteFrameLengthIsExact : Prop :=
  (∀ s f d k, s.Ready → 1 ≤ f → 4 * f ≤ s.srate.toNat → s.OnGrid f k →
    rnd ((k + 11) * s.srate.toNat) f ≤ 2 ^ 32 - 1 →
    ∃ t, exec (.byte f d) s = .next t ∧ t.OnGrid f (k + 11) ∧
      t.emitted.toNat - s.emitted.toNat = rnd ((k + 11) * s.srate.toNat) f - rnd (k * s.srate.toNat) f) ∧
  (∀ s f (data : List Nat), s.Ready → s.emitted = 0 → 1 ≤ f → 4 * f ≤ s.srate.toNat →
    rnd (11 * data.length * s.srate.toNat) f ≤ 2 ^ 32 - 1 →
    ∃ t, execAll (data.map (.byte f)) s = .next t ∧ t.emitted.toNat = rnd (11 * data.length * s.srate.toNat) f) ∧
  rnd (11 * 44100) 1200 = 404 ∧ rnd (22 * 44100) 1200 = 808

/-- R58: the pseudo-instruction expansions do what their command does whenever no fault occurs, for every operand in range
and, where the expansion has commands at `2f`, with `2f <= 65535`. Under a fault they are not equal: where only the 1 bits of
a byte fail the frequency check, BYTE faults as a whole on its own word, and the expansion emits the start bit and the 0 bits
before the first 1 bit, and records that BIT's word. -/
def Obligations.ExpansionsDoTheSame : Prop :=
  (∀ s t f, f ≤ 65535 → s.cause = 0#4 → exec (.bit f false) s = .next t → t.cause = 0#4 →
    execAll (bitAsPulses f false) s = .next t) ∧
  (∀ s t f, 2 * f ≤ 65535 → s.cause = 0#4 → exec (.bit f true) s = .next t → t.cause = 0#4 →
    execAll (bitAsPulses f true) s = .next t) ∧
  (∀ s t f d, f ≤ 65535 → d ≤ 255 → s.cause = 0#4 → exec (.byte f d) s = .next t → t.cause = 0#4 →
    execAll (byteAsBits f d) s = .next t) ∧
  (∀ s t f, f ≤ 65535 → s.cause = 0#4 → exec (.lhdr f) s = .next t → t.cause = 0#4 →
    execAll (longHeaderAsShort f) s = .next t) ∧
  (∀ s t f, 2 * f ≤ 65535 → s.cause = 0#4 → exec (.shdr f) s = .next t → t.cause = 0#4 →
    execAll (shortHeaderAsPulses f) s = .next t ∧ execAll (shortHeaderAsBits f) s = .next t) ∧
  (∀ s f d, f ≤ 65535 → d ≤ 255 → s.Ready → 1 ≤ f → 2 * f ≤ s.srate.toNat → s.srate.toNat < 4 * f →
    let zeros := 1 + ((List.range 8).takeWhile (fun k => !d.testBit k)).length
    s.samplesAfter (List.replicate zeros f) ≤ 2 ^ 32 - 1 →
    exec (.byte f d) s = .next { s with cause := 4, errinfo := encode (.byte f d) } ∧
    execAll (byteAsBits f d) s = .next
      { s.afterPulses (List.replicate zeros f) with cause := 4, errinfo := encode (.bit f true) })

/-! ### Sessions -/

/-- OPEN on a closed session (it creates the buffer and clears the fault, or raises `ECFG`), and on an open one. -/
def Obligations.OpenCreatesTheBuffer : Prop :=
  (∀ s width srate, s.session = .closed → (width = 1 ∨ width = 2) → srate ≠ 0 → srate < 2 ^ 24 →
    exec (.openBuf width srate) s = .next { s with
      session := .opened
      width := BitVec.ofNat 3 width
      srate := BitVec.ofNat 24 srate
      emitted := 0
      pulses := 0
      cause := 0
      errinfo := 0 }) ∧
  (∀ s width srate, s.session = .closed → ((width ≠ 1 ∧ width ≠ 2) ∨ srate = 0) → s.cause = 0#4 →
    exec (.openBuf width srate) s = .next { s with cause := 1, errinfo := encode (.openBuf width srate) }) ∧
  (∀ s width srate, s.session = .opened → s.cause = 0#4 →
    exec (.openBuf width srate) s = .next { s with cause := 2, errinfo := encode (.openBuf width srate) }) ∧
  (∀ s width srate, s.session = .opened → s.cause ≠ 0#4 → exec (.openBuf width srate) s = .next s)

/-- FLUSH on an open session, fault or none: the pad, the `End` item, the session closed. -/
def Obligations.FlushHandsTheBufferOff : Prop :=
  (∀ s, s.session = .opened → exec .flush s = .next { s with
      session := .closed
      out := s.out ++ (if s.width = 1#3 ∧ s.emitted.toNat % 2 = 1 then [.byte 0x00] else [])
        ++ [.endItem 1 s.width s.srate (decide (s.cause ≠ 0#4))] }) ∧
  (∀ s, s.session = .closed → s.cause = 0#4 →
    exec .flush s = .next { s with cause := 2, errinfo := 0x60000000 }) ∧
  (∀ s, s.session = .closed → s.cause ≠ 0#4 → exec .flush s = .next s)

/-- R119: FLUSH never clears a fault and adds only the pad byte and the `End` item. -/
def Obligations.FlushAddsOnlyPadAndEnd : Prop :=
  ∀ s t, exec .flush s = .next t →
    (s.cause ≠ 0#4 → t.cause = s.cause ∧ t.errinfo = s.errinfo) ∧
    (t.out = s.out ∨ (∃ flt, t.out = s.out ++ [.endItem 1 s.width s.srate flt]) ∨
      ∃ flt, t.out = s.out ++ [.byte 0x00, .endItem 1 s.width s.srate flt])

/-- R111: no command but OPEN writes the configuration, and OPEN does not while a session is open. -/
def Obligations.ConfigurationFixedInSession : Prop :=
  (∀ i s t, (∀ width srate, i ≠ .openBuf width srate) → exec i s = .next t → t.width = s.width ∧ t.srate = s.srate) ∧
  (∀ s t width srate, s.session = .opened → exec (.openBuf width srate) s = .next t →
    t.session = .opened ∧ t.width = s.width ∧ t.srate = s.srate) ∧
  (∀ s t, s.session = .opened → s.inbox.head? ≠ some .reset → step s = .next t → t.width = s.width ∧ t.srate = s.srate)

/-! ### Frames -/

/-- What PULSE, BIT, BYTE, SHDR and LHDR leave unchanged: everything but `EMITTED`, `PULSES`, the end of `OUT` and the fault
record, and what they append is sample bytes, never an `End` item. -/
def Obligations.EmittersLeaveTheRest : Prop :=
  ∀ i s t, emits i = true → exec i s = .next t →
    t.session = s.session ∧ t.width = s.width ∧ t.srate = s.srate ∧ t.inbox = s.inbox ∧ t.answers = s.answers ∧
    t.earlierRuns = s.earlierRuns ∧ (s.cause ≠ 0#4 ∨ s.session = .closed → t.out = s.out ∧ t.emitted = s.emitted ∧
      t.pulses = s.pulses) ∧ (s.cause ≠ 0#4 → t = s) ∧ (t.cause = s.cause → t.errinfo = s.errinfo) ∧
    ∃ bytes : List Byte, t.out = s.out ++ bytes.map .byte

/-- What FLUSH and OPEN leave unchanged. -/
def Obligations.SessionCommandsLeaveTheRest : Prop :=
  (∀ s t, exec .flush s = .next t →
    t.width = s.width ∧ t.srate = s.srate ∧ t.emitted = s.emitted ∧ t.pulses = s.pulses ∧ t.inbox = s.inbox ∧
    t.answers = s.answers ∧ t.earlierRuns = s.earlierRuns ∧
    (s.session = .opened ∨ s.cause ≠ 0#4 → t.cause = s.cause ∧ t.errinfo = s.errinfo) ∧ s.out <+: t.out) ∧
  (∀ s t width srate, exec (.openBuf width srate) s = .next t →
    t.out = s.out ∧ t.inbox = s.inbox ∧ t.answers = s.answers ∧ t.earlierRuns = s.earlierRuns ∧
    (t.session = s.session → t.width = s.width ∧ t.srate = s.srate ∧ t.emitted = s.emitted ∧ t.pulses = s.pulses))

/-- `OUT` is append-only: a step never removes, reorders or rewrites an item; a reset starts a new run's stream and keeps the
old one (log entry 4). -/
def Obligations.OutputIsAppendOnly : Prop :=
  ∀ s t, step s = .next t →
    (s.inbox.head? ≠ some .reset ∧ s.out <+: t.out ∧ t.earlierRuns = s.earlierRuns) ∨
    (s.inbox.head? = some .reset ∧ t.out = [] ∧ t.earlierRuns = s.earlierRuns ++ [s.out])

/-- The counters move only by pulses, by a successful OPEN and by reset. -/
def Obligations.CountersMoveOnlyByPulses : Prop :=
  ∀ s t, step s = .next t →
    (t.emitted = s.emitted ∧ t.pulses = s.pulses) ∨
    (t.emitted = 0 ∧ t.pulses = 0 ∧ (s.inbox.head? = some .reset ∨
      ∃ w width srate, s.inbox.head? = some (cmdWrite w) ∧ decode w = .command (.openBuf width srate) ∧
        s.session = .closed ∧ t.session = .opened)) ∨
    (∃ w i n, s.inbox.head? = some (cmdWrite w) ∧ decode w = .command i ∧ n ≤ (pulsesOf i).length ∧
      t.emitted.toNat = s.samplesAfter ((pulsesOf i).take n) ∧ t.pulses = s.pulses + BitVec.ofNat 32 n)

/-- `PULSES` is read by no rule: with another value in it every command does the same to everything else. -/
def Obligations.PulsesCounterDecidesNothing : Prop :=
  ∀ i s t q, exec i s = .next t → ∃ q', exec i { s with pulses := q } = .next { t with pulses := q' }

/-! ### The window -/

/-- R16: the fields of `STATUS`, its reset value, and that writes to it are ignored. -/
def Obligations.StatusShowsSessionAndCause : Prop :=
  (∀ s,
    ((regRead 0x04 s).getLsbD 0 = true ↔ s.session = .opened) ∧
    ((regRead 0x04 s).getLsbD 1 = true ↔ s.cause ≠ 0#4) ∧
    (regRead 0x04 s).extractLsb 7 2 = 0 ∧
    (regRead 0x04 s).extractLsb 11 8 = s.cause ∧
    (regRead 0x04 s).extractLsb 31 12 = 0) ∧
  regRead 0x04 State.reset = 0x00000000 ∧
  ∀ s v rest, s.inbox = .write .word 0x04 v :: rest → step s = .next { s with inbox := rest }

/-- R17: the fields of `CFG` and their legal values, its reset value, and that only a successful OPEN changes it. -/
def Obligations.CfgShowsTheConfiguration : Prop :=
  (∀ s,
    (regRead 0x08 s).extractLsb 23 0 = s.srate ∧
    (regRead 0x08 s).extractLsb 26 24 = s.width ∧
    (regRead 0x08 s).extractLsb 31 27 = 0) ∧
  regRead 0x08 State.reset = 0x0100AC44 ∧
  (∀ s v rest, s.inbox = .write .word 0x08 v :: rest → step s = .next { s with inbox := rest }) ∧
  (∀ s width srate, s.session = .closed → (width = 1 ∨ width = 2) → srate ≠ 0 → srate < 2 ^ 24 →
    ∃ t, exec (.openBuf width srate) s = .next t ∧ (regRead 0x08 t).toNat = srate + 2 ^ 24 * width) ∧
  (∀ s, s.Inv → 1 ≤ ((regRead 0x08 s).extractLsb 23 0).toNat ∧
    ((regRead 0x08 s).extractLsb 26 24 = 1 ∨ (regRead 0x08 s).extractLsb 26 24 = 2)) ∧
  (∀ s t width srate, exec (.openBuf width srate) s = .next t → t.cause ≠ 0#4 → regRead 0x08 t = regRead 0x08 s) ∧
  (∀ i s t, (∀ width srate, i ≠ .openBuf width srate) → exec i s = .next t → regRead 0x08 t = regRead 0x08 s)

/-- R33 (and R18, R20 for what stands at each offset). -/
def Obligations.ReadsAnswerAndChangeNothing : Prop :=
  (∀ s off rest, s.inbox = .read .word off :: rest →
    step s = .next { s with
      inbox := rest
      answers := s.answers ++ [
        if off = 0x04 then statusWord s
        else if off = 0x08 then cfgWord s
        else if off = 0x0C then s.emitted
        else if off = 0x10 then s.pulses
        else if off = 0x14 then s.errinfo
        else 0] }) ∧
  (∀ s off rest, s.inbox = .read .word off :: .read .word off :: rest →
    ∃ t u v, step s = .next t ∧ step t = .next u ∧ u.answers = s.answers ++ [v, v])

/-- R34: a write executes its word at `CMD` and does nothing at any other offset. -/
def Obligations.WritesActOnlyAtCmd : Prop :=
  (∀ s v rest, s.inbox = .write .word 0x00 v :: rest →
    step s = .next (referenceExecute v { s with inbox := rest })) ∧
  (∀ s off v rest, off ≠ 0x00 → s.inbox = .write .word off v :: rest → step s = .next { s with inbox := rest })

/-- Accesses a platform must not route to the block (R37; log entry 6): a read answers 0, a write has no effect, no fault. -/
def Obligations.MisroutedAccessesDoNothing : Prop :=
  (∀ s size off rest, size ≠ .word ∨ off % 4 ≠ 0 ∨ 32 ≤ off → s.inbox = .read size off :: rest →
    step s = .next { s with inbox := rest, answers := s.answers ++ [0] }) ∧
  (∀ s size off v rest, size ≠ .word ∨ off % 4 ≠ 0 ∨ 32 ≤ off → s.inbox = .write size off v :: rest →
    step s = .next { s with inbox := rest })

/-- R150: with no input waiting the block keeps all state. -/
def Obligations.IdleBlockKeepsItsState : Prop := ∀ s, s.inbox = [] → step s = .next s

/-- The `fault` output is `STATUS.FAULT`, a level: it follows `CAUSE` and nothing else. -/
def Obligations.FaultOutputFollowsCause : Prop :=
  (∀ s, (faultOutput s = true ↔ s.cause ≠ 0#4) ∧ faultOutput s = (regRead 0x04 s).getLsbD 1) ∧
  faultOutput State.reset = false ∧
  (∀ s t width srate, s.session = .closed → (width = 1 ∨ width = 2) → srate ≠ 0 →
    exec (.openBuf width srate) s = .next t → faultOutput t = false)

/-! ### Reset and the whole machine -/

/-- R25: the reset values of the elements and what the registers then read; the output stream is empty. -/
def Obligations.ResetValuesAreAsSpecified : Prop :=
  State.reset.session = .closed ∧ State.reset.width = 1 ∧ State.reset.srate = 44100 ∧ State.reset.emitted = 0 ∧
  State.reset.pulses = 0 ∧ State.reset.cause = 0#4 ∧ State.reset.errinfo = 0 ∧ State.reset.out = [] ∧
  regRead 0x04 State.reset = 0x00000000 ∧ regRead 0x08 State.reset = 0x0100AC44 ∧ regRead 0x0C State.reset = 0 ∧
  regRead 0x10 State.reset = 0 ∧ regRead 0x14 State.reset = 0

/-- The reset input, from every state: every element takes its reset value and a run with an empty stream begins; what was
delivered stays delivered, with no `End` item (the record of earlier runs is the model's, log entry 4). -/
def Obligations.ResetInputStartsANewRun : Prop :=
  ∀ s rest, s.inbox = .reset :: rest →
    step s = .next
      { session := .closed, width := 1, srate := 44100, emitted := 0, pulses := 0, cause := 0, errinfo := 0, out := []
        inbox := rest, answers := s.answers, earlierRuns := s.earlierRuns ++ [s.out] }

/-- R77: the stream bytes of the two levels, and what R78 makes of them: a run of `n` samples is `n` times the bytes of its
level, in order. -/
def Obligations.SampleBytesOfTheLevels : Prop :=
  sampleBytes 1 (Level.lo.value 1) = [0x00] ∧ sampleBytes 1 (Level.hi.value 1) = [0xFF] ∧
  sampleBytes 2 (Level.lo.value 2) = [0x00, 0x80] ∧ sampleBytes 2 (Level.hi.value 2) = [0xFF, 0x7F] ∧
  Level.lo.value 1 = 0 ∧ Level.hi.value 1 = 255 ∧ Level.lo.value 2 = -32768 ∧ Level.hi.value 2 = 32767 ∧
  (∀ v : BitVec 8, sampleBytes 1 v.toNat = [v]) ∧
  (∀ v : BitVec 16, sampleBytes 2 v.toInt = [v.extractLsb' 0 8, v.extractLsb' 8 8]) ∧
  (∀ w l n, sampleRun w l n = ((List.replicate n (sampleBytes w (l.value w))).flatten).map .byte) ∧
  (∀ n, sampleRun 1 .lo n = List.replicate n (.byte 0x00) ∧ sampleRun 1 .hi n = List.replicate n (.byte 0xFF) ∧
    sampleRun 2 .lo n = (List.replicate n [.byte 0x00, .byte 0x80]).flatten ∧
    sampleRun 2 .hi n = (List.replicate n [.byte 0xFF, .byte 0x7F]).flatten)

/-- The 9-bit items and the sideband values of R46. -/
def Obligations.StreamItemsOnTheWire : Prop :=
  (∀ b, (Item.wire (.byte b)).getLsbD 8 = false ∧ (Item.wire (.byte b)).extractLsb 7 0 = b) ∧
  (∀ c w r flt, (Item.wire (.endItem c w r flt)).getLsbD 8 = true ∧ (Item.wire (.endItem c w r flt)).getLsbD 0 = flt ∧
    (Item.wire (.endItem c w r flt)).extractLsb 7 1 = 0) ∧
  (∀ s t, s.session = .opened → exec .flush s = .next t →
    ∃ item, t.out.getLast? = some item ∧ item.sideband = some (1, s.width, s.srate))

/-- The invariants hold after reset. -/
def Obligations.ResetMeetsTheInvariants : Prop := State.reset.Inv ∧ State.reset.TwoLevel

/-- R24: after reset and after every step, the invariant holds; and item 6 as steps: FLUSH clears neither a counter nor the
configuration, and from a closed session only a reset or a successful OPEN changes one. -/
def Obligations.EveryStepKeepsTheInvariant : Prop :=
  State.reset.Inv ∧ (∀ s t, s.Inv → step s = .next t → t.Inv) ∧
  (∀ s t, exec .flush s = .next t →
    t.emitted = s.emitted ∧ t.pulses = s.pulses ∧ t.width = s.width ∧ t.srate = s.srate) ∧
  (∀ s t, s.session = .closed → step s = .next t →
    (t.emitted = s.emitted ∧ t.pulses = s.pulses ∧ t.width = s.width ∧ t.srate = s.srate) ∨
    s.inbox.head? = some .reset ∨
    ∃ w width srate, s.inbox.head? = some (cmdWrite w) ∧ decode w = .command (.openBuf width srate) ∧
      t.session = .opened)

/-- Every sample of every session is at the minimum or the maximum level of its width, after every step. -/
def Obligations.EverySampleIsLoOrHi : Prop := ∀ s t, s.TwoLevel → step s = .next t → t.TwoLevel
end

