-- ==== Sys2Proof/Laws/Decode.lean ====
section
/-! SUPPORT. Bounds on the fields of a command word (`30_encoding.md` R53) and the number an encoded command is (R55). -/

namespace Sys2Proof

theorem field_lt (w : Word) (hi lo : Nat) : field w hi lo < 2 ^ (hi + 1 - lo) := Nat.mod_lt _ (Nat.two_pow_pos _)

/-! ### The fields of the two formats (R51, R52), as divisions by literals -/

theorem field_31_28 (w : Word) : field w 31 28 = w.toNat / 268435456 % 16 := by simp [field]

theorem field_27_24 (w : Word) : field w 27 24 = w.toNat / 16777216 % 16 := by simp [field]

theorem field_27_27 (w : Word) : field w 27 27 = w.toNat / 134217728 % 2 := by simp [field]

theorem field_27_0 (w : Word) : field w 27 0 = w.toNat % 268435456 := by simp [field]

theorem field_26_24 (w : Word) : field w 26 24 = w.toNat / 16777216 % 8 := by simp [field]

theorem field_23_8 (w : Word) : field w 23 8 = w.toNat / 256 % 65536 := by simp [field]

theorem field_23_0 (w : Word) : field w 23 0 = w.toNat % 16777216 := by simp [field]

theorem field_7_0 (w : Word) : field w 7 0 = w.toNat % 256 := by simp [field]

theorem field_7_1 (w : Word) : field w 7 1 = w.toNat / 2 % 128 := by simp [field]

theorem field_0_0 (w : Word) : field w 0 0 = w.toNat % 2 := by simp [field]

/-! ### Ranges of operands -/

@[simp] theorem freqInRange_iff {f : Nat} : freqInRange f = true ↔ f < 65536 := decide_eq_true_iff

@[simp] theorem dataInRange_iff {d : Nat} : dataInRange d = true ↔ d < 256 := decide_eq_true_iff

@[simp] theorem widthInRange_iff {w : Nat} : widthInRange w = true ↔ w < 8 := decide_eq_true_iff

@[simp] theorem srateInRange_iff {r : Nat} : srateInRange r = true ↔ r < 16777216 := decide_eq_true_iff

/-- The word of a well-formed command is the number R55 writes. -/
theorem encode_toNat {i : Instr} (h : i.wf = true) : (encode i).toNat = encodeNat i := by
  have hlt : encodeNat i < 2 ^ 32 := by
    cases i <;>
      simp only [Instr.wf, freqInRange_iff, dataInRange_iff, widthInRange_iff, srateInRange_iff, Bool.and_eq_true,
        encodeNat] at h ⊢ <;>
      first | omega | skip
    all_goals (rename_i b; cases b <;> simp <;> omega)
  simpa [encode] using Nat.mod_eq_of_lt hlt

end Sys2Proof
end

