-- ==== Sys2Proof/Laws/State.lean ====
section
/-! SUPPORT. One lemma per field and named update of the state, each true by computation, so that no proof unfolds a record
update. -/

namespace Sys2Proof.Machine.State

variable (s : State)

/-! ### append -/

@[simp] theorem append_session (items : List Item) : (s.append items).session = s.session := rfl

@[simp] theorem append_width (items : List Item) : (s.append items).width = s.width := rfl

@[simp] theorem append_srate (items : List Item) : (s.append items).srate = s.srate := rfl

@[simp] theorem append_emitted (items : List Item) : (s.append items).emitted = s.emitted := rfl

@[simp] theorem append_pulses (items : List Item) : (s.append items).pulses = s.pulses := rfl

@[simp] theorem append_cause (items : List Item) : (s.append items).cause = s.cause := rfl

@[simp] theorem append_errinfo (items : List Item) : (s.append items).errinfo = s.errinfo := rfl

@[simp] theorem append_out (items : List Item) : (s.append items).out = s.out ++ items := rfl

@[simp] theorem append_inbox (items : List Item) : (s.append items).inbox = s.inbox := rfl

@[simp] theorem append_answers (items : List Item) : (s.append items).answers = s.answers := rfl

@[simp] theorem append_earlierRuns (items : List Item) : (s.append items).earlierRuns = s.earlierRuns := rfl

/-! ### countPulse -/

@[simp] theorem countPulse_session (n : Nat) : (s.countPulse n).session = s.session := rfl

@[simp] theorem countPulse_width (n : Nat) : (s.countPulse n).width = s.width := rfl

@[simp] theorem countPulse_srate (n : Nat) : (s.countPulse n).srate = s.srate := rfl

@[simp] theorem countPulse_emitted (n : Nat) : (s.countPulse n).emitted = BitVec.ofNat 32 (s.emitted.toNat + n) := rfl

@[simp] theorem countPulse_pulses (n : Nat) : (s.countPulse n).pulses = s.pulses + 1 := rfl

@[simp] theorem countPulse_cause (n : Nat) : (s.countPulse n).cause = s.cause := rfl

@[simp] theorem countPulse_errinfo (n : Nat) : (s.countPulse n).errinfo = s.errinfo := rfl

@[simp] theorem countPulse_out (n : Nat) : (s.countPulse n).out = s.out := rfl

@[simp] theorem countPulse_inbox (n : Nat) : (s.countPulse n).inbox = s.inbox := rfl

@[simp] theorem countPulse_answers (n : Nat) : (s.countPulse n).answers = s.answers := rfl

@[simp] theorem countPulse_earlierRuns (n : Nat) : (s.countPulse n).earlierRuns = s.earlierRuns := rfl

/-! ### record -/

@[simp] theorem record_session (code : BitVec 4) (w : Word) : (s.record code w).session = s.session := rfl

@[simp] theorem record_width (code : BitVec 4) (w : Word) : (s.record code w).width = s.width := rfl

@[simp] theorem record_srate (code : BitVec 4) (w : Word) : (s.record code w).srate = s.srate := rfl

@[simp] theorem record_emitted (code : BitVec 4) (w : Word) : (s.record code w).emitted = s.emitted := rfl

@[simp] theorem record_pulses (code : BitVec 4) (w : Word) : (s.record code w).pulses = s.pulses := rfl

@[simp] theorem record_cause (code : BitVec 4) (w : Word) : (s.record code w).cause = code := rfl

@[simp] theorem record_errinfo (code : BitVec 4) (w : Word) : (s.record code w).errinfo = w := rfl

@[simp] theorem record_out (code : BitVec 4) (w : Word) : (s.record code w).out = s.out := rfl

@[simp] theorem record_inbox (code : BitVec 4) (w : Word) : (s.record code w).inbox = s.inbox := rfl

@[simp] theorem record_answers (code : BitVec 4) (w : Word) : (s.record code w).answers = s.answers := rfl

@[simp] theorem record_earlierRuns (code : BitVec 4) (w : Word) : (s.record code w).earlierRuns = s.earlierRuns := rfl

/-! ### close -/

@[simp] theorem close_session : s.close.session = .closed := rfl

@[simp] theorem close_width : s.close.width = s.width := rfl

@[simp] theorem close_srate : s.close.srate = s.srate := rfl

@[simp] theorem close_emitted : s.close.emitted = s.emitted := rfl

@[simp] theorem close_pulses : s.close.pulses = s.pulses := rfl

@[simp] theorem close_cause : s.close.cause = s.cause := rfl

@[simp] theorem close_errinfo : s.close.errinfo = s.errinfo := rfl

@[simp] theorem close_out : s.close.out = s.out := rfl

@[simp] theorem close_inbox : s.close.inbox = s.inbox := rfl

@[simp] theorem close_answers : s.close.answers = s.answers := rfl

@[simp] theorem close_earlierRuns : s.close.earlierRuns = s.earlierRuns := rfl

/-! ### create -/

@[simp] theorem create_session (w : BitVec 3) (r : BitVec 24) : (s.create w r).session = .opened := rfl

@[simp] theorem create_width (w : BitVec 3) (r : BitVec 24) : (s.create w r).width = w := rfl

@[simp] theorem create_srate (w : BitVec 3) (r : BitVec 24) : (s.create w r).srate = r := rfl

@[simp] theorem create_emitted (w : BitVec 3) (r : BitVec 24) : (s.create w r).emitted = 0 := rfl

@[simp] theorem create_pulses (w : BitVec 3) (r : BitVec 24) : (s.create w r).pulses = 0 := rfl

@[simp] theorem create_cause (w : BitVec 3) (r : BitVec 24) : (s.create w r).cause = s.cause := rfl

@[simp] theorem create_errinfo (w : BitVec 3) (r : BitVec 24) : (s.create w r).errinfo = s.errinfo := rfl

@[simp] theorem create_out (w : BitVec 3) (r : BitVec 24) : (s.create w r).out = s.out := rfl

@[simp] theorem create_inbox (w : BitVec 3) (r : BitVec 24) : (s.create w r).inbox = s.inbox := rfl

@[simp] theorem create_answers (w : BitVec 3) (r : BitVec 24) : (s.create w r).answers = s.answers := rfl

@[simp] theorem create_earlierRuns (w : BitVec 3) (r : BitVec 24) : (s.create w r).earlierRuns = s.earlierRuns := rfl

/-! ### withInbox -/

@[simp] theorem withInbox_session (inbox : List Input) : (s.withInbox inbox).session = s.session := rfl

@[simp] theorem withInbox_width (inbox : List Input) : (s.withInbox inbox).width = s.width := rfl

@[simp] theorem withInbox_srate (inbox : List Input) : (s.withInbox inbox).srate = s.srate := rfl

@[simp] theorem withInbox_emitted (inbox : List Input) : (s.withInbox inbox).emitted = s.emitted := rfl

@[simp] theorem withInbox_pulses (inbox : List Input) : (s.withInbox inbox).pulses = s.pulses := rfl

@[simp] theorem withInbox_cause (inbox : List Input) : (s.withInbox inbox).cause = s.cause := rfl

@[simp] theorem withInbox_errinfo (inbox : List Input) : (s.withInbox inbox).errinfo = s.errinfo := rfl

@[simp] theorem withInbox_out (inbox : List Input) : (s.withInbox inbox).out = s.out := rfl

@[simp] theorem withInbox_inbox (inbox : List Input) : (s.withInbox inbox).inbox = inbox := rfl

@[simp] theorem withInbox_answers (inbox : List Input) : (s.withInbox inbox).answers = s.answers := rfl

@[simp] theorem withInbox_earlierRuns (inbox : List Input) : (s.withInbox inbox).earlierRuns = s.earlierRuns := rfl

/-! ### answer -/

@[simp] theorem answer_session (v : Word) : (s.answer v).session = s.session := rfl

@[simp] theorem answer_width (v : Word) : (s.answer v).width = s.width := rfl

@[simp] theorem answer_srate (v : Word) : (s.answer v).srate = s.srate := rfl

@[simp] theorem answer_emitted (v : Word) : (s.answer v).emitted = s.emitted := rfl

@[simp] theorem answer_pulses (v : Word) : (s.answer v).pulses = s.pulses := rfl

@[simp] theorem answer_cause (v : Word) : (s.answer v).cause = s.cause := rfl

@[simp] theorem answer_errinfo (v : Word) : (s.answer v).errinfo = s.errinfo := rfl

@[simp] theorem answer_out (v : Word) : (s.answer v).out = s.out := rfl

@[simp] theorem answer_inbox (v : Word) : (s.answer v).inbox = s.inbox := rfl

@[simp] theorem answer_answers (v : Word) : (s.answer v).answers = s.answers ++ [v] := rfl

@[simp] theorem answer_earlierRuns (v : Word) : (s.answer v).earlierRuns = s.earlierRuns := rfl

/-! ### restart -/

@[simp] theorem restart_session : s.restart.session = .closed := rfl

@[simp] theorem restart_width : s.restart.width = Config.widthReset := rfl

@[simp] theorem restart_srate : s.restart.srate = Config.srateReset := rfl

@[simp] theorem restart_emitted : s.restart.emitted = 0 := rfl

@[simp] theorem restart_pulses : s.restart.pulses = 0 := rfl

@[simp] theorem restart_cause : s.restart.cause = 0 := rfl

@[simp] theorem restart_errinfo : s.restart.errinfo = 0 := rfl

@[simp] theorem restart_out : s.restart.out = [] := rfl

@[simp] theorem restart_inbox : s.restart.inbox = s.inbox := rfl

@[simp] theorem restart_answers : s.restart.answers = s.answers := rfl

@[simp] theorem restart_earlierRuns : s.restart.earlierRuns = s.earlierRuns ++ [s.out] := rfl

/-! ### reset -/

@[simp] theorem reset_session : reset.session = .closed := rfl

@[simp] theorem reset_width : reset.width = Config.widthReset := rfl

@[simp] theorem reset_srate : reset.srate = Config.srateReset := rfl

@[simp] theorem reset_emitted : reset.emitted = 0 := rfl

@[simp] theorem reset_pulses : reset.pulses = 0 := rfl

@[simp] theorem reset_cause : reset.cause = 0 := rfl

@[simp] theorem reset_errinfo : reset.errinfo = 0 := rfl

@[simp] theorem reset_out : reset.out = [] := rfl

@[simp] theorem reset_inbox : reset.inbox = [] := rfl

@[simp] theorem reset_answers : reset.answers = [] := rfl

@[simp] theorem reset_earlierRuns : reset.earlierRuns = [] := rfl

end Sys2Proof.Machine.State
end

