-- ==== Sys2Proof/Laws/Ops.lean ====
section
/-! SUPPORT. What each shared operation can do, said once: taking a fault (`60_exceptions.md` R136), command acceptance (R134,
R135), one pulse and a list of pulses (`40_tone_clock_pulse.md` R78, `60_exceptions.md` R137). Later proofs cite these and do
not unfold the operations. -/

namespace Sys2Proof.Machine

/-! ### raise -/

theorem raise_clear {c : Cause} {w : Word} {s : State} (h : s.cause = 0#4) : raise c w s = s.record c.code w :=
  if_pos h

theorem raise_recorded {c : Cause} {w : Word} {s : State} (h : s.cause ≠ 0#4) : raise c w s = s :=
  if_neg h

/-- A fault changes at most the fault record (R136). -/
theorem raise_record (c : Cause) (w : Word) (s : State) : ∃ code info, raise c w s = s.record code info := by
  by_cases h : s.cause = 0#4
  · exact ⟨_, _, raise_clear h⟩
  · exact ⟨s.cause, s.errinfo, raise_recorded h⟩

theorem Cause.code_ne_zero (c : Cause) : c.code ≠ 0 := by cases c <;> decide

theorem Cause.code_le_five (c : Cause) : c.code.toNat ≤ 5 := by cases c <;> decide

section
variable (c : Cause) (w : Word) (s : State)

@[simp] theorem raise_session : (raise c w s).session = s.session := by unfold raise; split <;> rfl

@[simp] theorem raise_width : (raise c w s).width = s.width := by unfold raise; split <;> rfl

@[simp] theorem raise_srate : (raise c w s).srate = s.srate := by unfold raise; split <;> rfl

@[simp] theorem raise_emitted : (raise c w s).emitted = s.emitted := by unfold raise; split <;> rfl

@[simp] theorem raise_pulses : (raise c w s).pulses = s.pulses := by unfold raise; split <;> rfl

@[simp] theorem raise_out : (raise c w s).out = s.out := by unfold raise; split <;> rfl

@[simp] theorem raise_inbox : (raise c w s).inbox = s.inbox := by unfold raise; split <;> rfl

@[simp] theorem raise_answers : (raise c w s).answers = s.answers := by unfold raise; split <;> rfl

@[simp] theorem raise_earlierRuns : (raise c w s).earlierRuns = s.earlierRuns := by unfold raise; split <;> rfl

end

/-! ### accept -/

/-- What acceptance can do (R134, R135): do the command in the session state it fits, raise `ESEQ`, or discard. -/
theorem accept_cases (needs : Session) (underFault : Bool) (cw : Word) (act : State → State) (s : State) :
    (s.session = needs ∧ (s.cause = 0#4 ∨ underFault = true) ∧ accept needs underFault cw act s = act s) ∨
      (s.session ≠ needs ∧ s.cause = 0#4 ∧ accept needs underFault cw act s = s.record Cause.eseq.code cw) ∨
        (s.cause ≠ 0#4 ∧ (underFault = false ∨ s.session ≠ needs) ∧ accept needs underFault cw act s = s) := by
  unfold accept
  by_cases hc : s.cause = 0#4
  · rw [if_pos hc]
    by_cases hs : s.session = needs
    · exact .inl ⟨hs, .inl hc, if_pos hs⟩
    · exact .inr (.inl ⟨hs, hc, (if_neg hs).trans (raise_clear hc)⟩)
  · rw [if_neg hc]
    by_cases hu : (underFault && s.session == needs) = true
    · obtain ⟨hf, hs⟩ : underFault = true ∧ s.session = needs := by simpa using hu
      exact .inl ⟨hs, .inr hf, if_pos hu⟩
    · refine .inr (.inr ⟨hc, ?_, if_neg hu⟩)
      cases underFault
      · exact .inl rfl
      · exact .inr (by simpa using hu)

/-! ### One pulse -/

theorem emitPulse_fits {fp : Nat} {s : State}
    (h : s.emitted.toNat + pulseSamples s.srate.toNat fp s.emitted.toNat ≤ Config.maxSamples) :
    emitPulse fp s = some (s.afterPulses [fp]) := by
  have h' : ¬(s.emitted.toNat + lowSamples s.srate.toNat fp s.emitted.toNat
      + highSamples s.srate.toNat fp s.emitted.toNat > Config.maxSamples) := by
    unfold pulseSamples at h; omega
  simp [emitPulse, h', State.afterPulses, State.samplesAfter, samplesAfter, trainItems, pulseSamples, State.append,
    State.countPulse]

theorem emitPulse_overflows {fp : Nat} {s : State}
    (h : Config.maxSamples < s.emitted.toNat + pulseSamples s.srate.toNat fp s.emitted.toNat) :
    emitPulse fp s = none := by
  have h' : s.emitted.toNat + lowSamples s.srate.toNat fp s.emitted.toNat
      + highSamples s.srate.toNat fp s.emitted.toNat > Config.maxSamples := by
    unfold pulseSamples at h; omega
  simp [emitPulse, h']

/-! ### Lists of pulses -/

theorem emitted_le (s : State) : s.emitted.toNat ≤ Config.maxSamples := by
  have := s.emitted.isLt
  unfold Config.maxSamples
  omega

theorem le_samplesAfter (srate : Nat) (train : List Nat) (emitted : Nat) : emitted ≤ samplesAfter srate emitted train := by
  induction train generalizing emitted with
  | nil => exact le_rfl
  | cons fp rest ih => exact le_trans (Nat.le_add_right _ _) (ih _)

theorem samplesAfter_append (srate : Nat) (xs ys : List Nat) (emitted : Nat) :
    samplesAfter srate emitted (xs ++ ys) = samplesAfter srate (samplesAfter srate emitted xs) ys := by
  induction xs generalizing emitted with
  | nil => rfl
  | cons fp rest ih => exact ih _

theorem trainItems_append (w : BitVec 3) (srate : Nat) (xs ys : List Nat) (emitted : Nat) :
    trainItems w srate emitted (xs ++ ys)
      = trainItems w srate emitted xs ++ trainItems w srate (samplesAfter srate emitted xs) ys := by
  induction xs generalizing emitted with
  | nil => rfl
  | cons fp rest ih => simp [trainItems, samplesAfter, ih]

@[simp] theorem afterPulses_nil (s : State) : s.afterPulses [] = s := by
  simp [State.afterPulses, State.samplesAfter, samplesAfter, trainItems]

@[simp] theorem samplesAfter_nil (s : State) : s.samplesAfter [] = s.emitted.toNat := rfl

/-- The sample counter after a list of pulses that fits holds the exact count. -/
theorem afterPulses_emitted {s : State} {train : List Nat} (h : s.samplesAfter train ≤ Config.maxSamples) :
    (s.afterPulses train).emitted.toNat = s.samplesAfter train := by
  have : s.samplesAfter train < 2 ^ 32 := by unfold Config.maxSamples at h; omega
  simpa [State.afterPulses] using Nat.mod_eq_of_lt this

/-- Pulses in two parts: the second part starts where the first ends. -/
theorem samplesAfter_split {s : State} {xs : List Nat} (h : s.samplesAfter xs ≤ Config.maxSamples) (ys : List Nat) :
    (s.afterPulses xs).samplesAfter ys = s.samplesAfter (xs ++ ys) := by
  show samplesAfter s.srate.toNat (s.afterPulses xs).emitted.toNat ys = _
  rw [afterPulses_emitted h]
  exact (samplesAfter_append ..).symm

theorem afterPulses_split {s : State} {xs : List Nat} (h : s.samplesAfter xs ≤ Config.maxSamples) (ys : List Nat) :
    (s.afterPulses xs).afterPulses ys = s.afterPulses (xs ++ ys) := by
  have he := afterPulses_emitted h
  have hs := samplesAfter_split h ys
  have hitems : trainItems s.width s.srate.toNat s.emitted.toNat (xs ++ ys)
      = trainItems s.width s.srate.toNat s.emitted.toNat xs
        ++ trainItems s.width s.srate.toNat (s.samplesAfter xs) ys := trainItems_append ..
  unfold State.afterPulses at he hs ⊢
  simp only [he, hs, hitems, List.append_assoc, List.length_append, BitVec.add_assoc, BitVec.ofNat_add]

/-- Everything a list of pulses can do (R78, R137): all of them are emitted, or the first `n` are and the next, which would
take `EMITTED` above `2^32 - 1`, raises `EOVF`. -/
theorem emitPulses_cases (cw : Word) (train : List Nat) (s : State) :
    (s.samplesAfter train ≤ Config.maxSamples ∧ emitPulses cw train s = s.afterPulses train) ∨
      ∃ n, n < train.length ∧ s.samplesAfter (train.take n) ≤ Config.maxSamples ∧
        Config.maxSamples < s.samplesAfter (train.take (n + 1)) ∧
          emitPulses cw train s = raise .eovf cw (s.afterPulses (train.take n)) := by
  induction train generalizing s with
  | nil => exact .inl ⟨emitted_le s, (afterPulses_nil s).symm⟩
  | cons fp rest ih =>
    by_cases hfit : s.samplesAfter [fp] ≤ Config.maxSamples
    · have hrun : emitPulses cw (fp :: rest) s = emitPulses cw rest (s.afterPulses [fp]) := by
        simp [emitPulses, emitPulse_fits (s := s) (fp := fp) hfit]
      rcases ih (s.afterPulses [fp]) with ⟨hle, he⟩ | ⟨n, hn, hle, hgt, he⟩
      · rw [samplesAfter_split hfit] at hle
        rw [afterPulses_split hfit] at he
        exact .inl ⟨hle, hrun.trans he⟩
      · rw [samplesAfter_split hfit] at hle hgt
        rw [afterPulses_split hfit] at he
        exact .inr ⟨n + 1, by simpa using hn, hle, hgt, hrun.trans he⟩
    · refine .inr ⟨0, by simp, emitted_le s, by simpa using hfit, ?_⟩
      simp [emitPulses, emitPulse_overflows (s := s) (fp := fp) (Nat.lt_of_not_le hfit)]

/-! ### Emitting commands -/

/-- Everything an emitting command can do (R134, R81, R137): emit its pulses, or stop at the one that does not fit, or raise
`EFREQ` or `ESEQ` with nothing emitted, or be discarded. -/
theorem emitCommand_cases (cw : Word) (topFreq : Nat) (train : List Nat) (s : State) :
    (s.session = .opened ∧ s.cause = 0#4 ∧ freqOk topFreq s.srate = true ∧
        emitCommand cw topFreq train s = emitPulses cw train s) ∨
      (s.session = .opened ∧ s.cause = 0#4 ∧ freqOk topFreq s.srate = false ∧
        emitCommand cw topFreq train s = s.record Cause.efreq.code cw) ∨
        (s.session ≠ .opened ∧ s.cause = 0#4 ∧ emitCommand cw topFreq train s = s.record Cause.eseq.code cw) ∨
          (s.cause ≠ 0#4 ∧ emitCommand cw topFreq train s = s) := by
  unfold emitCommand
  rcases accept_cases .opened false cw
      (fun u => if freqOk topFreq u.srate then emitPulses cw train u else raise .efreq cw u) s
    with ⟨hs, hc, e⟩ | ⟨hs, hc, e⟩ | ⟨hc, -, e⟩
  · have hc : s.cause = 0#4 := by simpa using hc
    cases hf : freqOk topFreq s.srate
    · exact .inr (.inl ⟨hs, hc, rfl, by rw [e]; simp [hf, raise_clear hc]⟩)
    · exact .inl ⟨hs, hc, rfl, by rw [e]; simp [hf]⟩
  · exact .inr (.inr (.inl ⟨hs, hc, e⟩))
  · exact .inr (.inr (.inr ⟨hc, e⟩))

end Sys2Proof.Machine
end

