-- ==== Sys2Proof/Laws/PerInstr.lean ====
section
/-! SUPPORT. Statements about every command as syntax, one lemma per constructor. -/

namespace Sys2Proof.Laws.OpcodeField

/-- The opcode of a command (`30_encoding.md` R54). -/
def opcodeOf : Instr → Nat
  | .pulse _ => 1
  | .bit _ _ => 2
  | .byte _ _ => 3
  | .shdr _ => 4
  | .lhdr _ => 5
  | .flush => 6
  | .openBuf _ _ => 7

/-- The top four bits of a well-formed command's word are its opcode (R50). -/
def Statement (i : Instr) : Prop := i.wf = true → field (encode i) 31 28 = opcodeOf i

theorem pulse (f : Nat) : Statement (.pulse f) := by
  intro h
  simp only [field, encode_toNat h, encodeNat, opcodeOf]
  simp only [Instr.wf, freqInRange, decide_eq_true_eq] at h
  omega

theorem bit (f : Nat) (b : Bool) : Statement (.bit f b) := by
  intro h
  simp only [field, encode_toNat h, encodeNat, opcodeOf]
  simp only [Instr.wf, freqInRange, decide_eq_true_eq] at h
  cases b <;> simp <;> omega

theorem byte (f d : Nat) : Statement (.byte f d) := by
  intro h
  simp only [field, encode_toNat h, encodeNat, opcodeOf]
  simp only [Instr.wf, freqInRange, dataInRange, Bool.and_eq_true, decide_eq_true_eq] at h
  omega

theorem shdr (f : Nat) : Statement (.shdr f) := by
  intro h
  simp only [field, encode_toNat h, encodeNat, opcodeOf]
  simp only [Instr.wf, freqInRange, decide_eq_true_eq] at h
  omega

theorem lhdr (f : Nat) : Statement (.lhdr f) := by
  intro h
  simp only [field, encode_toNat h, encodeNat, opcodeOf]
  simp only [Instr.wf, freqInRange, decide_eq_true_eq] at h
  omega

theorem flush : Statement .flush := by
  intro _
  decide

theorem openBuf (w r : Nat) : Statement (.openBuf w r) := by
  intro h
  simp only [field, encode_toNat h, encodeNat, opcodeOf]
  simp only [Instr.wf, widthInRange, srateInRange, Bool.and_eq_true, decide_eq_true_eq] at h
  omega

end Sys2Proof.Laws.OpcodeField
end

