-- ==== Sys2Proof/Laws/Stream.lean ====
section
/-! SUPPORT. How the stream's sessions grow when items are appended (`20_memory.md` R32), and how many items a run of samples
is (R77). -/

namespace Sys2Proof.Machine

theorem sessionsOf_append (xs ys : List Item) : sessionsOf (xs ++ ys) = ys.foldl Sessions.push (sessionsOf xs) := by
  simp [sessionsOf, List.foldl_append]

/-- Bytes only lengthen the session that is open. -/
theorem foldl_push_bytes (t : Sessions) (bs : List Byte) :
    (bs.map Item.byte).foldl Sessions.push t = { t with current := t.current ++ bs } := by
  induction bs generalizing t with
  | nil => simp
  | cons b rest ih => simp [Sessions.push, ih]

theorem sessionsOf_append_bytes (xs : List Item) (bs : List Byte) :
    sessionsOf (xs ++ bs.map Item.byte) = { sessionsOf xs with current := (sessionsOf xs).current ++ bs } := by
  rw [sessionsOf_append, foldl_push_bytes]

/-- An `End` item closes the session whose bytes stand before it. -/
theorem sessionsOf_append_end (xs : List Item) (c : Nat) (w : BitVec 3) (r : BitVec 24) (f : Bool) :
    sessionsOf (xs ++ [.endItem c w r f])
      = { closed := (sessionsOf xs).closed ++ [⟨(sessionsOf xs).current, c, w, r, f⟩], current := [] } := by
  simp [sessionsOf_append, Sessions.push]

/-- A sample is as many bytes as the width says (R77), in the two widths there are. -/
theorem sampleBytes_length {w : BitVec 3} (h : Config.WidthLegal w.toNat) (v : Int) : (sampleBytes w v).length = w.toNat := by
  unfold sampleBytes
  rcases h with h | h
  · rw [if_pos (BitVec.eq_of_toNat_eq h), h]
    rfl
  · rw [if_neg (by rintro rfl; simp at h), h]
    rfl

/-- The bytes of a run of samples. -/
def sampleRunBytes (w : BitVec 3) (l : Level) (n : Nat) : List Byte := (List.replicate n (sampleBytes w (l.value w))).flatten

theorem sampleRun_eq_bytes (w : BitVec 3) (l : Level) (n : Nat) : sampleRun w l n = (sampleRunBytes w l n).map .byte := rfl

theorem sampleRunBytes_length {w : BitVec 3} (h : Config.WidthLegal w.toNat) (l : Level) (n : Nat) :
    (sampleRunBytes w l n).length = w.toNat * n := by
  simp [sampleRunBytes, sampleBytes_length h, Nat.mul_comm]

end Sys2Proof.Machine
end

