-- ==== Sys2Proof/Laws/ToneClock.lean ====
section
/-! SUPPORT. What the rounded quotient and the tone clock can be relied on for: the nearest-integer characterisation of `rnd`
and its laws (`40_tone_clock_pulse.md` R70), and the order of a pulse's boundaries (R73). -/

namespace Sys2Proof.Machine

/-- `rnd` in terms of the quotient and the remainder, the form later proofs split. -/
theorem rnd_cases (a b : Nat) :
    (2 * (a % b) < b ∧ rnd a b = a / b) ∨ (2 * (a % b) > b ∧ rnd a b = a / b + 1) ∨
      (2 * (a % b) = b ∧ (a / b) % 2 = 0 ∧ rnd a b = a / b) ∨
        (2 * (a % b) = b ∧ (a / b) % 2 = 1 ∧ rnd a b = a / b + 1) := by
  simp only [rnd]
  split
  · exact .inl ⟨‹_›, rfl⟩
  · split
    · exact .inr (.inl ⟨‹_›, rfl⟩)
    · split
      · exact .inr (.inr (.inl ⟨by omega, ‹_›, rfl⟩))
      · exact .inr (.inr (.inr ⟨by omega, by omega, rfl⟩))

/-- The half bound from above: `rnd a b <= a/b + 1/2`. -/
theorem rnd_upper (a : Nat) {b : Nat} : 2 * b * rnd a b ≤ 2 * a + b := by
  have hdiv := Nat.div_add_mod a b
  rcases rnd_cases a b with ⟨h, e⟩ | ⟨h, e⟩ | ⟨h, -, e⟩ | ⟨h, -, e⟩ <;> rw [e] <;>
    generalize a / b = q at * <;> generalize a % b = r at * <;> subst hdiv <;> nlinarith

/-- The half bound from below: `a/b <= rnd a b + 1/2`. -/
theorem rnd_lower (a : Nat) {b : Nat} (hb : 0 < b) : 2 * a ≤ 2 * b * rnd a b + b := by
  have hdiv := Nat.div_add_mod a b
  have hmod := Nat.mod_lt a hb
  rcases rnd_cases a b with ⟨h, e⟩ | ⟨h, e⟩ | ⟨h, -, e⟩ | ⟨h, -, e⟩ <;> rw [e] <;>
    generalize a / b = q at * <;> generalize a % b = r at * <;> subst hdiv <;> nlinarith

/-- A natural strictly within one half of the quotient is its rounding. -/
theorem rnd_eq_of_near {a b k : Nat} (hb : 0 < b) (hlo : 2 * a < 2 * b * k + b) (hhi : 2 * b * k < 2 * a + b) : rnd a b = k := by
  have hup := rnd_upper a (b := b)
  have hdn := rnd_lower a hb
  rcases lt_trichotomy (rnd a b) k with h | h | h
  · have hle : 2 * b * (rnd a b + 1) ≤ 2 * b * k := Nat.mul_le_mul_left _ h
    have hring : 2 * b * (rnd a b + 1) = 2 * b * rnd a b + 2 * b := by ring
    omega
  · exact h
  · have hle : 2 * b * (k + 1) ≤ 2 * b * rnd a b := Nat.mul_le_mul_left _ h
    have hring : 2 * b * (k + 1) = 2 * b * k + 2 * b := by ring
    omega

@[simp] theorem rnd_zero (b : Nat) : rnd 0 b = 0 := by
  simp [rnd]

end Sys2Proof.Machine
end

