-- ==== Sys2Proof/Tests/Slice0.lean ====
section
/-! SUPPORT. Tests of the model, their expected results taken from `95_test_vectors.md` or worked by hand from the rules it
names, and a witness for the hypotheses of every statement that has some. -/

namespace Sys2Proof.Machine.Test

/-! ### Helpers -/

/-- An open session of the given configuration with `e` samples and `n` pulses emitted. -/
def opened (w : BitVec 3) (r : BitVec 24) (e n : BitVec 32) : State :=
  { State.reset with session := .opened, width := w, srate := r, emitted := e, pulses := n }

/-- A state with these inputs still to arrive. -/
def facing (s : State) (inputs : List Input) : State := { s with inbox := inputs }

/-- A state with a fault recorded. -/
def failed (s : State) (cause : BitVec 4) (w : Word) : State := { s with cause := cause, errinfo := w }

/-- Whether the outcome is the next state `t`. -/
def goesTo (r : Result) (t : State) : Bool :=
  match r with
  | .next s => decide (s = t)
  | .fault _ => false
  | .refused _ => false

/-- "Runs a, b, c, ..." of `95_test_vectors.md` for width 1: alternating low and high, starting low. -/
def runs : List Nat → List Item
  | [] => []
  | [a] => List.replicate a (.byte 0x00)
  | a :: b :: rest => List.replicate a (.byte 0x00) ++ List.replicate b (.byte 0xFF) ++ runs rest

/-! ### Well-formedness: each check refuses an operand one past its range -/

theorem test_wf_refuses_freq : Instr.wf (.pulse 65536) = false ∧ Instr.wf (.pulse 65535) = true := by decide

theorem test_wf_refuses_data : Instr.wf (.byte 1200 256) = false ∧ Instr.wf (.byte 1200 255) = true := by decide

theorem test_wf_refuses_width : Instr.wf (.openBuf 8 44100) = false ∧ Instr.wf (.openBuf 7 44100) = true := by decide

theorem test_wf_refuses_srate : Instr.wf (.openBuf 1 16777216) = false ∧ Instr.wf (.openBuf 1 16777215) = true := by decide

theorem test_wf_refuses_freq_of_every_command :
    Instr.wf (.bit 65536 true) = false ∧ Instr.wf (.byte 65536 0) = false ∧ Instr.wf (.shdr 65536) = false ∧
      Instr.wf (.lhdr 65536) = false := by decide

/-! ### Decoding: words of section 2.8 (V-ENC), and a few written out bit by bit -/

theorem test_decode_pulse : decode 0x1004B000 = .command (.pulse 1200) ∧ decode 0x10FFFF00 = .command (.pulse 65535) := by
  decide

theorem test_decode_bit : decode 0x2004B000 = .command (.bit 1200 false) ∧ decode 0x2004B001 = .command (.bit 1200 true) := by
  decide

/-- `OP` 0011, `RSV` 0000, `FREQ` 0000010010110000 (1200), `DATA` 10100101 (0xA5). -/
theorem test_decode_byte : decode 0b00110000000001001011000010100101 = .command (.byte 1200 0xA5) := by decide

theorem test_decode_shdr : decode 0x40096000 = .command (.shdr 2400) := by decide

theorem test_decode_lhdr : decode 0x5004B000 = .command (.lhdr 1200) := by decide

theorem test_decode_flush : decode 0x60000000 = .command .flush := by decide

/-- `OP` 0111, `RSV` 0, `WIDTH` 010, `SRATE` 000000001011101110000000 (48000). -/
theorem test_decode_open : decode 0b01110010000000001011101110000000 = .command (.openBuf 2 48000) ∧
    decode 0x70000000 = .command (.openBuf 0 0) ∧ decode 0x77FFFFFF = .command (.openBuf 7 16777215) := by decide

/-- The illegal words of section 2.8, each with the model's name for the reason. -/
theorem test_decode_refuses :
    [0x00000000, 0x0004B000, 0x80000000, 0x9004B000, 0xFFFFFFFF].map decode = List.replicate 5 (.illegal .opcode) ∧
    [0x1104B000, 0x3104B000, 0x1804B000, 0x7900AC44, 0x78000000].map decode = List.replicate 5 (.illegal .reservedBit) ∧
    [0x1004B001, 0x2004B002, 0x2004B0FF, 0x4004B080, 0x5004B001].map decode = List.replicate 5 (.illegal .dataBits) ∧
    [0x60000001, 0x60000100, 0x6004B000].map decode = List.replicate 3 (.illegal .flushOperand) :=
  ⟨by decide, by decide, by decide, by decide⟩

theorem test_encode : encode (.bit 1200 true) = 0x2004B001 ∧ encode (.openBuf 1 44100) = 0x7100AC44 := by decide

theorem test_table_word : decodeTableWord 32 0x60000000 = some .flush ∧ decodeTableWord 32 0 = none := by decide

/-! ### The rounded quotient and the tone clock (V-RND, V-TC) -/

theorem test_rnd : rnd 1 2 = 0 ∧ rnd 3 2 = 2 ∧ rnd 5 2 = 2 ∧ rnd 10 4 = 2 ∧ rnd 8 3 = 3 ∧ rnd 529200 2400 = 220 := by decide

/-- V-TC-1 row 5 and V-TC-5's last row, whose `mid` and `end` exceed `2^32 - 1`. -/
theorem test_boundaries :
    (pulseStart 44100 1200 5, pulseMid 44100 1200 5, pulseEnd 44100 1200 5) = (184, 202, 220) ∧
    (pulseStart 44100 1200 116869858, pulseMid 44100 1200 116869858, pulseEnd 44100 1200 116869858)
      = (4294967282, 4294967300, 4294967318) := by decide

/-! ### Each command -/

/-- V-PULSE-1, third pulse: 18 low, 18 high. -/
theorem test_pulse_on_grid : goesTo (exec (.pulse 1200) (opened 1 44100 74 2))
    { opened 1 44100 110 3 with out := runs [18, 18] } = true := by decide

/-- V-PULSE-10: width 2, low byte first. -/
theorem test_pulse_width_two : goesTo (exec (.pulse 22050) (opened 2 44100 0 0))
    { opened 2 44100 2 1 with out := [.byte 0x00, .byte 0x80, .byte 0xFF, .byte 0x7F] } = true := by decide

/-- V-BIT-7: a 1 bit at `k = 6`, across the tie at sample 220. -/
theorem test_bit_one : goesTo (exec (.bit 1200 true) (opened 1 44100 220 6))
    { opened 1 44100 257 8 with out := runs [10, 9, 9, 9] } = true := by decide

/-- V-BIT-10: the check depends on the bit. -/
theorem test_bit_check : goesTo (exec (.bit 22050 true) (opened 1 44100 0 0))
    (failed (opened 1 44100 0 0) 4 0x20562201) = true := by decide

/-- V-BYTE-10, at 8000 Hz. -/
theorem test_byte_zero : goesTo (exec (.byte 1200 0) (opened 1 8000 0 0))
    { opened 1 8000 73 13 with
      out := runs [3, 4, 3, 3, 4, 3, 3, 4, 3, 3, 4, 3, 3, 4, 3, 3, 4, 3, 2, 1, 2, 2, 1, 2, 2, 1] } = true := by decide

/-- V-OVF-2: overflow inside the frame, after the start bit and one data bit. -/
theorem test_byte_overflows : goesTo (exec (.byte 1200 0) (opened 1 44100 4294967208 116869856))
    { opened 1 44100 4294967282 116869858 with
      out := runs [18, 19, 18, 19], cause := 5, errinfo := 0x3004B000 } = true := by decide

/-- By hand: at 4 Hz `SHDR 1` is `HdrCount(1) = 3` pulses at 2 Hz, one low and one high sample each. -/
theorem test_shdr : goesTo (exec (.shdr 1) (opened 1 4 0 0)) { opened 1 4 6 3 with out := runs [1, 1, 1, 1, 1, 1] } = true := by
  decide

/-- V-HDR-14. -/
theorem test_shdr_check : goesTo (exec (.shdr 11026) (opened 1 44100 0 0))
    (failed (opened 1 44100 0 0) 4 0x402B1200) = true := by decide

/-- By hand: four times the short header of `test_shdr`. -/
theorem test_lhdr : goesTo (exec (.lhdr 1) (opened 1 4 0 0))
    { opened 1 4 24 12 with out := (List.replicate 12 (runs [1, 1])).flatten } = true := by decide

/-- R102: four times the rounded count, not the rounded fourfold. -/
theorem test_lhdr_count : (longHeaderPulses 2).length = 28 ∧ rnd (16000 * 2) 1200 = 27 := by decide

/-- V-SES-4: the pad byte, and `EMITTED` kept. -/
theorem test_flush_pads : goesTo (exec .flush (opened 1 44100 37 1))
    { opened 1 44100 37 1 with session := .closed, out := [.byte 0x00, .endItem 1 1 44100 false] } = true := by decide

/-- V-FLT-18, first FLUSH: the `End` item carries the fault, which stays recorded. -/
theorem test_flush_under_fault : goesTo (exec .flush (failed (opened 1 44100 0 0) 4 0x10000000))
    { failed (opened 1 44100 0 0) 4 0x10000000 with session := .closed, out := [.endItem 1 1 44100 true] } = true := by
  decide

/-- V-SES-2, from a state with a fault recorded (V-FLT-15). -/
theorem test_open_clears_fault : goesTo (exec (.openBuf 2 48000) (failed State.reset 1 0x7300AC44))
    (opened 2 48000 0 0) = true := by decide

/-- V-FLT-14: an OPEN that fails under a fault keeps the first cause and word. -/
theorem test_open_keeps_first_fault : goesTo (exec (.openBuf 0 44100) (failed State.reset 1 0x7300AC44))
    (failed State.reset 1 0x7300AC44) = true := by decide

/-! ### The window -/

/-- V-REG-4's registers, and V-FLT-6's `STATUS`. -/
theorem test_registers : statusWord (opened 1 44100 404 17) = 1 ∧ cfgWord (opened 1 44100 404 17) = 0x0100AC44 ∧
    statusWord (failed (opened 1 44100 0 0) 2 0x7200AC44) = 0x203 ∧ cfgWord (opened 2 48000 0 0) = 0x0200BB80 := by
  decide

/-- V-FLT-16: an illegal word after a fault is discarded. -/
theorem test_illegal_discarded :
    goesTo (step (facing (failed (opened 1 44100 0 0) 4 0x10000000) [cmdWrite 0xFFFFFFFF]))
      (failed (opened 1 44100 0 0) 4 0x10000000) = true := by decide

/-- V-FLT-8: an illegal word on a closed session. -/
theorem test_illegal_word : goesTo (step (facing State.reset [cmdWrite 0xFFFFFFFF]))
    (failed State.reset 3 0xFFFFFFFF) = true := by decide

/-- V-REG-1, V-REG-2: a read is answered and changes nothing else. -/
theorem test_read_cfg : goesTo (step (facing State.reset [.read .word 0x08, .read .word 0x18]))
    { State.reset with inbox := [.read .word 0x18], answers := [0x0100AC44] } = true := by decide

/-- V-REG-3: `CFG` cannot be written. -/
theorem test_write_cfg : goesTo (step (facing State.reset [.write .word 0x08 0x0200BB80])) State.reset = true := by decide

/-- A placed word runs next: FLUSH right after reset is out of sequence (V-FLT-2). -/
theorem test_placed_word :
    goesTo (step (State.reset.withFetchWord 32 0x60000000)) (failed State.reset 2 0x60000000) = true := by decide

/-- R46. -/
theorem test_wire : Item.wire (.byte 0xA5) = 0x0A5 ∧ Item.wire (.endItem 1 2 48000 true) = 0x101 := by decide

/-! ### Host sequences and assembler lines -/

/-- The block of program P5: its 29 words by rule R122 (words 1 to 3, 13, 19 to 25 and 29). -/
theorem test_encode_audio :
    let block : Block := .binary #v[0x54, 0x45, 0x53, 0x54, 0x20, 0x20] [0x3E, 0x2A, 0xC9] ⟨0x8000, 0x8002, 0x8000⟩
    let words := (encodeAudio [block] 1200 1 44100).map encode
    words.length = 29 ∧ words.take 3 = [0x7100AC44, 0x5004B000, 0x3004B0D0] ∧ (words.drop 12).take 1 = [0x3004B054] ∧
      (words.drop 18).take 7 = [0x4004B000, 0x3004B000, 0x3004B080, 0x3004B002, 0x3004B080, 0x3004B000, 0x3004B080] ∧
      words.drop 28 = [0x60000000] := by decide

/-- R122, conflict C5: a CUSTOM block is the long header of the loop, then its payload. -/
theorem test_encode_custom :
    encodeAudio [.custom [0x3E]] 1200 1 44100 = [.openBuf 1 44100, .lhdr 1200, .byte 1200 0x3E, .flush] := by decide

/-- R121: a file name is padded with spaces to six characters, and no longer name is one. -/
theorem test_file_name :
    padFileName [0x54, 0x45, 0x53, 0x54] = some #v[0x54, 0x45, 0x53, 0x54, 0x20, 0x20] ∧
      padFileName (List.replicate 7 0x54) = none := by decide

/-- R57's lines. -/
theorem test_lines : (Line.command (.bit 1200 true)).text = "BIT 1200, 1" ∧ (Line.read .errinfo).text = "READ ERRINFO" ∧
    Line.input (.command (.openBuf 1 44100)) = .write .word 0 0x7100AC44 ∧
    Line.input (.read .pulses) = .read .word 0x10 := by decide

/-- R57's syntax read back: spacing, a comment, hexadecimal, an operand out of range, a bit that is none. -/
theorem test_read_line :
    readLine "BYTE  1200, 0xA5 ; a byte".toList = some (.command (.byte 1200 0xA5)) ∧
    readLine "OPEN 8, 44100".toList = none ∧ readLine "BIT 1200, 2".toList = none ∧
    readLine ".word 0x2004B002".toList = some (.word 0x2004B002) ∧ readLine "READ CFG".toList = some (.read .cfg) ∧
    readLine "FLUSH".toList = some (.command .flush) := by decide

/-- R58. -/
theorem test_expansion : byteAsBits 1200 0xA5 =
    [false, true, false, true, false, false, true, false, true, true, true].map (.bit 1200) := by decide

/-! ### Witnesses: a state and operands that meet a statement's hypotheses together -/

theorem ready_opened (w : BitVec 3) (r : BitVec 24) (e n : BitVec 32) : (opened w r e n).Ready := ⟨rfl, rfl⟩

/-- The hypotheses about a `CMD` write: a word that decodes and an illegal one, with no fault recorded. Of
`StepRunsDecodedCommand`, `StepIsExecuteLineByLine`, `IllegalCommandRecordsEill` and the second clause of
`IllegalWordsRaiseEill`. -/
theorem witness_cmd_writes :
    (facing (opened 1 44100 0 0) [cmdWrite 0x1004B000]).inbox = cmdWrite 0x1004B000 :: [] ∧
    decode 0x1004B000 = .command (.pulse 1200) ∧
    (facing (opened 1 44100 0 0) [cmdWrite 0x1004B000]).cause = 0#4 ∧
    (facing State.reset [cmdWrite 0xFFFFFFFF]).inbox = cmdWrite 0xFFFFFFFF :: [] ∧
    decode 0xFFFFFFFF = .illegal .opcode ∧ (facing State.reset [cmdWrite 0xFFFFFFFF]).cause = 0#4 := by decide

/-- `DecodeAndEncodeAgree`: operands at the ends of their ranges. -/
theorem witness_DecodeAndEncodeAgree :
    Instr.wf (.byte 65535 255) = true ∧ Instr.wf (.pulse 0) = true ∧ Instr.wf (.openBuf 7 (2 ^ 24 - 1)) = true ∧
    decode 0x77FFFFFF = .command (.openBuf 7 (2 ^ 24 - 1)) := by decide

/-- `IllegalWordsRaiseEill`: one word at the edge of every clause. -/
theorem witness_IllegalWordsRaiseEill :
    (0x0FFFFFFF : Word).extractLsb 31 28 = 0 ∧ decode 0x0FFFFFFF = .illegal .opcode ∧
    ((0x80000000 : Word).extractLsb 31 28).toNat = 8 ∧ decode 0x80000000 = .illegal .opcode ∧
    ((0xF0000000 : Word).extractLsb 31 28).toNat = 15 ∧ decode 0xF0000000 = .illegal .opcode ∧
    (0x11000000 : Word).extractLsb 27 24 ≠ 0 ∧ decode 0x11000000 = .illegal .reservedBit ∧
    (0x61000000 : Word).extractLsb 27 24 ≠ 0 ∧ decode 0x61000000 = .illegal .flushOperand ∧
    (0x100000FF : Word).extractLsb 7 0 ≠ 0 ∧ decode 0x10000001 = .illegal .dataBits ∧
    decode 0x40000001 = .illegal .dataBits ∧ decode 0x50000080 = .illegal .dataBits ∧
    (0x20000002 : Word).extractLsb 7 1 ≠ 0 ∧ decode 0x20000002 = .illegal .dataBits ∧
    decode 0x2000FF01 = .command (.bit 255 true) ∧
    (0x60000001 : Word).extractLsb 27 0 ≠ 0 ∧ decode 0x60000001 = .illegal .flushOperand ∧
    (0x78000000 : Word).getLsbD 27 = true ∧ decode 0x78000000 = .illegal .reservedBit := by decide

theorem witness_PlacedWordRunsNext : 0x70000000 < 2 ^ 32 ∧ decodeTableWord 32 0x70000000 = some (.openBuf 0 0) := by decide

theorem witness_AssembledLinesRun :
    Instr.wf (.pulse 1200) = true ∧
    (facing State.reset (assemble [.command (.pulse 1200), .word 0, .read .cfg])).inbox
      = assemble (.command (.pulse 1200) :: [.word 0, .read .cfg]) ∧
    (facing State.reset (assemble [.word 0, .read .cfg])).inbox = assemble (.word 0 :: [.read .cfg]) ∧
    (facing State.reset (assemble [.read .cfg])).inbox = assemble (.read .cfg :: []) := by decide

theorem witness_PriorityExamplesHold :
    State.reset.cause = 0#4 ∧ State.reset.session = .closed ∧ (opened 1 44100 0 0).cause = 0#4 ∧
    (opened 1 44100 0 0).session = .opened ∧ (opened 1 44100 0xFFFFFFFF 0).emitted = 0xFFFFFFFF ∧
    (facing (opened 1 44100 0xFFFFFFFF 0) [cmdWrite 0x30000055]).inbox = cmdWrite 0x30000055 :: [] := by decide

/-- Both clauses of `SequenceErrorRecordsEseq`. -/
theorem witness_SequenceErrorRecordsEseq :
    (facing (opened 1 44100 0 0) [cmdWrite 0x73000000]).cause = 0#4 ∧
    decode 0x73000000 = .command (.openBuf 3 0) ∧ (opened 1 44100 0 0).session = .opened ∧
    (facing State.reset [cmdWrite 0x60000000]).cause = 0#4 ∧ decode 0x60000000 = .command .flush ∧
    State.reset.session = .closed := by decide

/-- The three clauses of `RecordedFaultDiscards`, and both ways of being discarded. -/
theorem witness_RecordedFaultDiscards :
    (failed State.reset 1 0x7300AC44).cause ≠ 0#4 ∧ decode 0x1004B000 ≠ .command .flush ∧
    decode 0x60000000 = .command .flush ∧ (failed State.reset 1 0x7300AC44).session = .closed ∧
    (failed (opened 1 44100 0 0) 4 0x10000000).session = .opened ∧
    decode 0x7100AC44 = .command (.openBuf 1 44100) := by decide

theorem witness_FirstFaultIsKept :
    (failed State.reset 1 0x7300AC44).cause ≠ 0#4 ∧ State.reset.cause = 0#4 ∧
    (failed State.reset 1 0x7300AC44).session = .closed ∧ (0 ≠ 1 ∧ 0 ≠ 2) ∧
    emitPulse 22050 (opened 1 44100 0xFFFFFFFF 0) = none ∧
    ∃ t, exec (.pulse 0) (opened 1 44100 0 0) = .next t ∧ t.cause ≠ (opened 1 44100 0 0).cause := by
  refine ⟨by decide, by decide, by decide, by decide, by decide, _, rfl, by decide⟩

/-- `FaultsArePrecise` and `EveryFaultHasItsCause`: a step that records each of the five faults. -/
theorem witness_faults_recorded :
    goesTo (step (facing State.reset [cmdWrite 0x71000000])) (failed State.reset 1 0x71000000) = true ∧
    goesTo (step (facing State.reset [cmdWrite 0x1004B000])) (failed State.reset 2 0x1004B000) = true ∧
    goesTo (step (facing State.reset [cmdWrite 0x00000000])) (failed State.reset 3 0x00000000) = true ∧
    goesTo (step (facing (opened 1 44100 0 0) [cmdWrite 0x10562300]))
      (failed (opened 1 44100 0 0) 4 0x10562300) = true ∧
    goesTo (step (facing (opened 1 44100 4294967295 0) [cmdWrite 0x10562200]))
      (failed (opened 1 44100 4294967295 0) 5 0x10562200) = true := by decide

/-- `FaultLeftOnlyByOpenOrReset`: a recorded fault with the session open, and with it closed. -/
theorem witness_FaultLeftOnlyByOpenOrReset :
    (failed (opened 1 44100 0 0) 4 0x10000000).cause ≠ 0#4 ∧
    (failed (opened 1 44100 0 0) 4 0x10000000).session = .opened ∧
    (failed State.reset 1 0x71000000).cause ≠ 0#4 ∧ (failed State.reset 1 0x71000000).session = .closed ∧
    (2 = 1 ∨ 2 = 2) ∧ 1 ≠ 0 ∧ goesTo (step (facing (failed State.reset 1 0x71000000) [.reset]))
      { State.reset with earlierRuns := [[]] } = true := by decide

/-- `FrequencyCheckDecidesEfreq`: a legal frequency and one just past it. -/
theorem witness_FrequencyCheckDecidesEfreq :
    (opened 1 44100 0 0).Ready ∧ emits (.byte 11026 0) = true ∧ freqOk (2 * 11025) 44100 = true ∧
    freqOk (2 * 11026) 44100 = false ∧ 22050 ∈ pulsesOf (.bit 11025 true) ∧
    ∃ t, exec (.byte 11026 0) (opened 1 44100 0 0) = .next t ∧ t.cause = 4 := by
  refine ⟨ready_opened _ _ _ _, by decide, by decide, by decide, by decide, _, rfl, by decide⟩

theorem witness_NothingIsEverStuck :
    emits (.pulse 1200) = true ∧ (failed (opened 1 44100 0 0) 4 0).cause ≠ 0#4 ∧ Instr.wf (.lhdr 65535) = true ∧
    (opened 1 44100 37 1).session = .opened := by decide

/-- The hypotheses of the tone clock's laws, at the least rate and at the greatest. Of `RoundedQuotientIsNearest`,
`PulseBoundariesTile`, `BoundariesWithinHalfSample`, `LegalPulseHasBothHalves`, `PulseLengthIsFloorOrCeil`,
`IntermediatesFit` and `OffGridIndexIsNearest`. -/
theorem witness_tone_clock :
    1 ≤ 1 ∧ 2 * 1 ≤ 2 ∧ 2 ^ 24 - 1 < 2 ^ 24 ∧ 2 ^ 17 - 1 < 2 ^ 17 ∧ 2 * (2 ^ 17 - 1) ≤ 2 ^ 24 - 1 ∧ 2 ^ 32 - 1 ≤ 2 ^ 32 - 1 ∧
    44100 % 1050 = 0 ∧ 1 ≤ 1200 ∧ (2 * (1 % 3) < 3) ∧ (3 < 2 * (2 % 3)) ∧ 2 * (5 % 2) = 2 := by decide

/-- PULSE at the two ends of its legal frequencies (V-PULSE-5, V-PULSE-6), and a pulse that fits exactly (V-OVF-6). -/
theorem witness_PulseEmitsOneToneCycle :
    (opened 1 44100 0 0).Ready ∧ 1 ≤ 1 ∧ 2 * 1 ≤ (opened 1 44100 0 0).srate.toNat ∧
    2 * 22050 ≤ (opened 1 44100 0 0).srate.toNat ∧ (opened 1 44100 0 0).samplesAfter [1] = 44100 ∧
    (opened 1 44100 4294967258 0).samplesAfter [1200] = 2 ^ 32 - 1 :=
  ⟨ready_opened _ _ _ _, by decide⟩

theorem witness_BitEmitsOneOrTwoPulses :
    (opened 1 44100 0 0).Ready ∧ 2 * 22050 ≤ (opened 1 44100 0 0).srate.toNat ∧
    (opened 1 44100 0 0).samplesAfter [22050] ≤ 2 ^ 32 - 1 ∧ 4 * 11025 ≤ (opened 1 44100 0 0).srate.toNat ∧
    (opened 1 44100 0 0).samplesAfter [2 * 11025, 2 * 11025] ≤ 2 ^ 32 - 1 :=
  ⟨ready_opened _ _ _ _, by decide⟩

theorem witness_ByteEmitsElevenSlots :
    (opened 1 44100 0 0).Ready ∧ 4 * 11025 ≤ (opened 1 44100 0 0).srate.toNat ∧
    (opened 1 44100 0 0).samplesAfter (bytePulses 11025 0xFF) ≤ 2 ^ 32 - 1 :=
  ⟨ready_opened _ _ _ _, by decide⟩

/-- Of `ShortHeaderEmitsItsPulses` and `LongHeaderEmitsFourShort`. -/
theorem witness_headers :
    (opened 1 4 0 0).Ready ∧ 4 * 1 ≤ (opened 1 4 0 0).srate.toNat ∧
    (opened 1 4 0 0).samplesAfter (List.replicate (rnd (4000 * 1) 1200) (2 * 1)) ≤ 2 ^ 32 - 1 ∧
    (opened 1 4 0 0).samplesAfter (List.replicate (4 * rnd (4000 * 1) 1200) (2 * 1)) ≤ 2 ^ 32 - 1 :=
  ⟨ready_opened _ _ _ _, by decide⟩

/-- On the grid of 2400 at index 2, of 1200 at index 1, with room for what follows. Of `ShortHeaderMovesAlongGrid`,
`PulseTrainNeverDrifts`, `PhaseIsContinuous`, `BitValuesTakeEqualTime` and `ByteFrameLengthIsExact`. -/
theorem witness_grid :
    (opened 1 44100 37 1).Ready ∧ (opened 1 44100 37 1).OnGrid 2400 2 ∧ (opened 1 44100 37 1).OnGrid 1200 1 ∧
    (opened 1 44100 0 0).OnGrid 1200 0 ∧ 4 * 1200 ≤ (opened 1 44100 37 1).srate.toNat ∧
    rnd ((2 + hdrCount 1200) * 44100) (2 * 1200) ≤ 2 ^ 32 - 1 ∧ rnd ((1 + 11) * 44100) 1200 ≤ 2 ^ 32 - 1 :=
  ⟨ready_opened _ _ _ _, by unfold State.OnGrid; decide, by unfold State.OnGrid; decide, by unfold State.OnGrid; decide,
    by decide⟩

theorem witness_PulseTrainNeverDrifts :
    (opened 1 44100 0 0).Ready ∧ (opened 1 44100 0 0).emitted = 0 ∧ (opened 1 44100 0 0).pulses = 0 ∧
    2 * 22050 ≤ (opened 1 44100 0 0).srate.toNat ∧ rnd (100 * 44100) 22050 ≤ 2 ^ 32 - 1 :=
  ⟨ready_opened _ _ _ _, by decide⟩

/-- A list of commands that keeps the grid, a short header of an even count among them. -/
theorem witness_PhaseIsContinuous :
    (∀ i ∈ [Instr.lhdr 1200, .shdr 1200, .byte 1200 0xA5, .bit 1200 true], KeepsGrid 1200 i) ∧
    rnd ((0 + ([Instr.lhdr 1200, .shdr 1200, .byte 1200 0xA5, .bit 1200 true].map slotCount).sum) * 44100) 1200
      ≤ 2 ^ 32 - 1 := by
  refine ⟨?_, by decide⟩
  intro i hi
  simp only [List.mem_cons, List.not_mem_nil, or_false] at hi
  rcases hi with rfl | rfl | rfl | rfl
  · exact .inr (.inr (.inr rfl))
  · exact .inr (.inr (.inl ⟨rfl, by decide⟩))
  · exact .inr (.inl ⟨_, rfl⟩)
  · exact .inl ⟨_, rfl⟩

theorem witness_ByteFrameLengthIsExact :
    (opened 1 44100 0 0).Ready ∧ (opened 1 44100 0 0).emitted = 0 ∧ 4 * 1200 ≤ (opened 1 44100 0 0).srate.toNat ∧
    rnd (11 * [0xD0, 0x1A].length * 44100) 1200 ≤ 2 ^ 32 - 1 :=
  ⟨ready_opened _ _ _ _, by decide⟩

/-- `ExpansionsDoTheSame`: each command runs without a fault, BIT and BYTE with their operands at the ends of the ranges. -/
theorem witness_ExpansionsDoTheSame :
    (65535 ≤ 65535 ∧ ∃ t, exec (.bit 65535 false) (opened 1 131070 0 0) = .next t ∧ t.cause = 0#4) ∧
    (2 * 32767 ≤ 65535 ∧ ∃ t, exec (.bit 32767 true) (opened 1 131068 0 0) = .next t ∧ t.cause = 0#4) ∧
    (255 ≤ 255 ∧ ∃ t, exec (.byte 65535 255) (opened 1 262140 0 0) = .next t ∧ t.cause = 0#4) ∧
    (∃ t, exec (.lhdr 1) (opened 1 4 0 0) = .next t ∧ t.cause = 0#4) ∧
    (2 * 1 ≤ 65535 ∧ ∃ t, exec (.shdr 1) (opened 1 4 0 0) = .next t ∧ t.cause = 0#4) :=
  ⟨⟨by decide, _, rfl, by decide⟩, ⟨by decide, _, rfl, by decide⟩, ⟨by decide, _, rfl, by decide⟩, ⟨_, rfl, by decide⟩,
    by decide, _, rfl, by decide⟩

/-- The last clause of `ExpansionsDoTheSame`: 12000 is legal at 44100 and 24000 is not, for the byte with no 1 bit, where nine
pulses stand before the first stop bit, and for the one with a 1 bit first. -/
theorem witness_expansion_under_fault :
    (opened 1 44100 0 0).Ready ∧ 2 * 12000 ≤ (opened 1 44100 0 0).srate.toNat ∧
    (opened 1 44100 0 0).srate.toNat < 4 * 12000 ∧
    1 + ((List.range 8).takeWhile (fun k => !Nat.testBit 0x00 k)).length = 9 ∧
    1 + ((List.range 8).takeWhile (fun k => !Nat.testBit 0x41 k)).length = 1 ∧
    (opened 1 44100 0 0).samplesAfter (List.replicate 9 12000) ≤ 2 ^ 32 - 1 :=
  ⟨ready_opened _ _ _ _, by decide⟩

/-- The tie clause of `OffGridIndexIsNearest`: V-OFF-3, and the tie one index further on. -/
theorem witness_index_tie :
    2 * (20 * 1200 % 48000) = 48000 ∧ pulseIndex 48000 1200 20 = 0 ∧
    2 * (60 * 1200 % 48000) = 48000 ∧ pulseIndex 48000 1200 60 = 2 := by decide

/-- OPEN and FLUSH, closed and open, with and without a fault, the operands at their edges. Of `OpenCreatesTheBuffer`,
`FlushHandsTheBufferOff`, `FaultOutputFollowsCause` and `CfgShowsTheConfiguration`. -/
theorem witness_session_commands :
    State.reset.session = .closed ∧ State.reset.cause = 0#4 ∧ (opened 1 44100 0 0).session = .opened ∧
    (opened 1 44100 0 0).cause = 0#4 ∧ (failed State.reset 1 0).cause ≠ 0#4 ∧
    (failed (opened 1 44100 0 0) 4 0).session = .opened ∧ 2 ^ 24 - 1 < 2 ^ 24 ∧ 2 ^ 24 - 1 ≠ 0 ∧ (0 ≠ 1 ∧ 0 ≠ 2) ∧
    (3 ≠ 1 ∧ 3 ≠ 2) := by decide

/-- `exec` answers a next state. Of `EmittersLeaveTheRest`, `SessionCommandsLeaveTheRest`, `FlushAddsOnlyPadAndEnd`,
`ConfigurationFixedInSession`, `EveryStepKeepsTheInvariant`, `PulsesCounterDecidesNothing`, `CfgShowsTheConfiguration`,
`FaultOutputFollowsCause` and `StreamItemsOnTheWire`. -/
theorem witness_exec_next :
    emits (.pulse 22050) = true ∧ (∃ t, exec (.pulse 22050) (opened 1 44100 0 0) = .next t ∧ t.emitted = 2) ∧
    (∃ t, exec .flush (opened 1 44100 1 0) = .next t ∧ t.out ≠ []) ∧
    (∃ t, exec (.openBuf 2 48000) State.reset = .next t ∧ t.width = 2) ∧
    (∃ t, exec (.openBuf 3 48000) State.reset = .next t ∧ t.cause ≠ 0#4) :=
  ⟨rfl, ⟨_, rfl, by decide⟩, ⟨_, rfl, by decide⟩, ⟨_, rfl, by decide⟩, ⟨_, rfl, by decide⟩⟩

theorem witness_ConfigurationFixedInSession :
    (opened 1 44100 0 0).session = .opened ∧
    (facing (opened 1 44100 0 0) [cmdWrite 0x7200BB80]).inbox.head? ≠ some .reset ∧
    goesTo (step (facing (opened 1 44100 0 0) [cmdWrite 0x7200BB80]))
      (failed (opened 1 44100 0 0) 2 0x7200BB80) = true := by decide

/-- The window's clauses: the first and the last offset of each, every way of being misrouted, no input, a reset. Of
`StatusShowsSessionAndCause`, `CfgShowsTheConfiguration`, `ReadsAnswerAndChangeNothing`, `WritesActOnlyAtCmd`,
`MisroutedAccessesDoNothing`, `IdleBlockKeepsItsState` and `ResetInputStartsANewRun`. -/
theorem witness_window :
    (facing State.reset [.read .word 0x1C]).inbox = .read .word 0x1C :: [] ∧
    (facing State.reset [.read .word 0x04, .read .word 0x04]).inbox = .read .word 0x04 :: .read .word 0x04 :: [] ∧
    (facing State.reset [.write .word 0x00 0]).inbox = .write .word 0x00 0 :: [] ∧
    (facing State.reset [.write .word 0x04 0]).inbox = .write .word 0x04 0 :: [] ∧ 0x04 ≠ 0x00 ∧ 0x1C ≠ 0x00 ∧
    AccessSize.byte ≠ .word ∧ 1 % 4 ≠ 0 ∧ 32 ≤ 32 ∧ State.reset.inbox = [] ∧
    (facing State.reset [.reset]).inbox = .reset :: [] := by decide

/-- The step clauses of `EveryStepKeepsTheInvariant`: from a closed session, a command, a reset and an OPEN. -/
theorem witness_closed_session_steps :
    State.reset.session = .closed ∧
    goesTo (step (facing State.reset [cmdWrite 0x60000000])) (failed State.reset 2 0x60000000) = true ∧
    goesTo (step (facing State.reset [.reset])) { State.reset with earlierRuns := [[]] } = true ∧
    goesTo (step (facing State.reset [cmdWrite 0x7200BB80])) (opened 2 48000 0 0) = true := by decide

/-- An invariant together with a step. Of `EveryStepKeepsTheInvariant`, `EverySampleIsLoOrHi`, `OutputIsAppendOnly`,
`CountersMoveOnlyByPulses` and `CfgShowsTheConfiguration`. -/
theorem witness_invariants : State.reset.Inv ∧ State.reset.TwoLevel ∧ goesTo (step State.reset) State.reset = true := by
  refine ⟨?_, ?_, by decide⟩
  · constructor <;> simp [State.reset, sessionsOf, Config.WidthLegal]
  · constructor <;> simp [State.reset, sessionsOf, Config.WidthLegal]

end Sys2Proof.Machine.Test
end

/-! What a legal pulse, a command and a step can do, said once; what keeps the invariant of R24; the fields of `STATUS` and
`CFG`. From these the statements of `10_state.md`. -/

namespace Sys2Proof.Machine

/-! ### A legal pulse has a low and a high half (`40_tone_clock_pulse.md` R82) -/

/-- An exact quotient needs no rounding (R70). -/
theorem rnd_mul_self {b : Nat} (hb : 0 < b) (k : Nat) : rnd (k * b) b = k := by
  have hring : 2 * b * k = 2 * (k * b) := by ring
  exact rnd_eq_of_near hb (by omega) (by omega)

/-- Multiples of `S` at least one whole `c` apart round to different integers: a step of exactly 1 meets exact quotients only,
and a step of more than 1 outruns both half bounds. -/
theorem rnd_mul_lt_succ {S c : Nat} (hc : 0 < c) (hcS : c ≤ S) (n : Nat) : rnd (n * S) c < rnd ((n + 1) * S) c := by
  rcases hcS.eq_or_lt with rfl | hlt
  · rw [rnd_mul_self hc, rnd_mul_self hc]
    exact n.lt_succ_self
  · have hup := rnd_upper (n * S) (b := c)
    have hdn := rnd_lower ((n + 1) * S) hc
    have hstep : (n + 1) * S = n * S + S := by ring
    exact Nat.lt_of_mul_lt_mul_left (a := 2 * c) (by omega)

theorem freqOk_iff {fx : Nat} {srate : BitVec 24} : freqOk fx srate = true ↔ 1 ≤ fx ∧ 2 * fx ≤ srate.toNat := by
  simp [freqOk]

/-- A pulse at a legal frequency is at least one low and one high sample (R82). -/
theorem two_le_pulseSamples {fp : Nat} {srate : BitVec 24} (h : freqOk fp srate = true) (emitted : Nat) :
    2 ≤ pulseSamples srate.toNat fp emitted := by
  obtain ⟨hpos, hle⟩ := freqOk_iff.mp h
  have hc : 0 < 2 * fp := by omega
  let p := pulseIndex srate.toNat fp emitted
  have hlo : pulseStart srate.toNat fp p < pulseMid srate.toNat fp p := rnd_mul_lt_succ hc hle (2 * p)
  have hhi : pulseMid srate.toNat fp p < pulseEnd srate.toNat fp p := rnd_mul_lt_succ hc hle (2 * p + 1)
  change 2 ≤ (pulseMid srate.toNat fp p - pulseStart srate.toNat fp p) +
    (pulseEnd srate.toNat fp p - pulseMid srate.toNat fp p)
  omega

/-- Pulses at legal frequencies are at least two samples each, the bound behind `2 * PULSES <= EMITTED` (R24 item 3). -/
theorem add_two_mul_length_le_samplesAfter {srate : BitVec 24} {train : List Nat}
    (h : ∀ fp ∈ train, freqOk fp srate = true) (emitted : Nat) :
    emitted + 2 * train.length ≤ samplesAfter srate.toNat emitted train := by
  induction train generalizing emitted with
  | nil => exact le_rfl
  | cons fp rest ih =>
    have hfirst := two_le_pulseSamples (h fp List.mem_cons_self) emitted
    have hrest := ih (fun x hx => h x (List.mem_cons_of_mem _ hx)) (emitted + pulseSamples srate.toNat fp emitted)
    rw [List.length_cons, samplesAfter]
    omega

/-! ### The bytes of a list of pulses (R77, R78) -/

/-- The stream bytes of a list of pulses. -/
def trainBytes (w : BitVec 3) (srate : Nat) : Nat → List Nat → List Byte
  | _, [] => []
  | emitted, fp :: rest =>
    sampleRunBytes w .lo (lowSamples srate fp emitted) ++ sampleRunBytes w .hi (highSamples srate fp emitted)
      ++ trainBytes w srate (emitted + pulseSamples srate fp emitted) rest

/-- A list of pulses puts bytes on the stream and no `End` item. -/
theorem trainItems_eq_bytes (w : BitVec 3) (srate emitted : Nat) (train : List Nat) :
    trainItems w srate emitted train = (trainBytes w srate emitted train).map .byte := by
  induction train generalizing emitted with
  | nil => rfl
  | cons fp rest ih => simp [trainItems, trainBytes, sampleRun_eq_bytes, ih]

/-- Every sample counted is as many bytes as the width says. -/
theorem trainBytes_length {w : BitVec 3} (h : Config.WidthLegal w.toNat) (srate emitted : Nat) (train : List Nat) :
    w.toNat * emitted + (trainBytes w srate emitted train).length = w.toNat * samplesAfter srate emitted train := by
  induction train generalizing emitted with
  | nil => rfl
  | cons fp rest ih =>
    rw [samplesAfter, ← ih]
    simp only [trainBytes, List.length_append, sampleRunBytes_length h, pulseSamples]
    ring

theorem afterPulses_pulses {s : State} {train : List Nat} (h : s.pulses.toNat + train.length < 2 ^ 32) :
    (s.afterPulses train).pulses.toNat = s.pulses.toNat + train.length := by
  simp only [State.afterPulses, BitVec.toNat_add, BitVec.toNat_ofNat, Nat.add_mod_mod]
  exact Nat.mod_eq_of_lt h

/-- The stream after a list of pulses: the open session has grown by their bytes. -/
theorem sessionsOf_afterPulses (s : State) (train : List Nat) :
    sessionsOf (s.afterPulses train).out = { sessionsOf s.out with
      current := (sessionsOf s.out).current ++ trainBytes s.width s.srate.toNat s.emitted.toNat train } := by
  rw [← sessionsOf_append_bytes, ← trainItems_eq_bytes]
  rfl

/-! ### The hand-off of FLUSH (`43_session.md` R117, R118) -/

/-- The pad is as many zero bytes as `padCount` says. -/
theorem padItems_eq_bytes (s : State) :
    padItems s = (List.replicate (padCount s.width.toNat s.emitted.toNat) (0x00 : Byte)).map .byte := by
  have hw : s.width = 1#3 ↔ s.width.toNat = 1 := BitVec.toNat_eq
  unfold padItems padCount
  simp only [hw]
  split <;> rfl

/-- The session FLUSH hands off: the bytes since the last `End`, the pad, and what the `End` item says. -/
def closingSession (s : State) : ClosedSession where
  data := (sessionsOf s.out).current ++ List.replicate (padCount s.width.toNat s.emitted.toNat) 0x00
  channels := Config.channels
  width := s.width
  srate := s.srate
  flt := faulted s

theorem sessionsOf_flushBuffer (s : State) :
    sessionsOf (flushBuffer s).out = { closed := (sessionsOf s.out).closed ++ [closingSession s], current := [] } := by
  have hout : (flushBuffer s).out = (s.out ++ padItems s) ++ [handOff s] := (List.append_assoc ..).symm
  rw [hout, handOff, sessionsOf_append_end, padItems_eq_bytes, sessionsOf_append_bytes]
  rfl

/-- With the pad a session is an even number of bytes, and still whole samples (R117). -/
theorem padded_length_mod {width : Nat} (h : Config.WidthLegal width) (emitted : Nat) :
    (width * emitted + padCount width emitted) % 2 = 0 ∧ (width * emitted + padCount width emitted) % width = 0 := by
  unfold padCount
  rcases h with rfl | rfl
  · split <;> omega
  · simp

/-! ### Commands -/

/-- A command that does not fit the session state touches at most the fault record (R134, R135). -/
theorem accept_of_session_ne {needs : Session} {s : State} (h : s.session ≠ needs) (underFault : Bool) (cw : Word)
    (act : State → State) : ∃ code info, accept needs underFault cw act s = s.record code info := by
  rcases accept_cases needs underFault cw act s with ⟨hs, -⟩ | ⟨-, -, e⟩ | ⟨-, -, e⟩
  · exact absurd hs h
  · exact ⟨_, _, e⟩
  · exact ⟨s.cause, s.errinfo, e⟩

/-- OPEN and FLUSH execute in the session state they fit, fault or no fault (R135). -/
theorem accept_underFault {needs : Session} {s : State} (h : s.session = needs) (cw : Word) (act : State → State) :
    accept needs true cw act s = act s := by
  rcases accept_cases needs true cw act s with ⟨-, -, e⟩ | ⟨hs, -⟩ | ⟨-, hs, -⟩
  · exact e
  · exact absurd h hs
  · simp [h] at hs

/-- The five emitting commands have one shape: acceptance, one check on the highest frequency, the pulses in order. -/
theorem exec_of_emits {i : Instr} (h : emits i = true) (s : State) :
    exec i s = .next (emitCommand (encode i) (topFreqOf i) (pulsesOf i) s) := by
  cases i with
  | pulse | bit | byte | shdr | lhdr => rfl
  | flush | openBuf => cases h

theorem not_emits_iff {i : Instr} : emits i = false ↔ i = .flush ∨ ∃ width srate, i = .openBuf width srate := by
  cases i <;> simp [emits]

/-- Both pulses of a slot are at its one frequency (R90). -/
theorem eq_of_mem_slotPulses {f fp : Nat} {b : Bool} (h : fp ∈ slotPulses f b) : fp = bitTopFreq f b := by
  cases b <;> simpa [slotPulses, bitTopFreq] using h

/-- The one check on `Fmax` covers every pulse of the command (R81). -/
theorem freqOk_of_mem_pulsesOf {i : Instr} {srate : BitVec 24} (h : freqOk (topFreqOf i) srate = true) {fp : Nat}
    (hfp : fp ∈ pulsesOf i) : freqOk fp srate = true := by
  cases i with
  | pulse f => rwa [List.mem_singleton.mp hfp]
  | bit f b => rwa [eq_of_mem_slotPulses hfp]
  | byte f d =>
    obtain ⟨b, -, hslot⟩ := List.mem_flatMap.mp hfp
    rw [eq_of_mem_slotPulses hslot]
    rw [freqOk_iff] at h ⊢
    cases b <;> simp only [topFreqOf, bitTopFreq, if_true, if_false, Bool.false_eq_true] at h ⊢ <;> omega
  | shdr f => rwa [List.eq_of_mem_replicate hfp]
  | lhdr f =>
    obtain ⟨header, hheader, hmem⟩ := List.mem_flatten.mp hfp
    rw [List.eq_of_mem_replicate hheader] at hmem
    rwa [List.eq_of_mem_replicate hmem]
  | flush | openBuf => cases hfp

/-- What the body of OPEN can do (R112): refuse the configuration, or create the buffer and clear the fault record. -/
theorem createBuffer_cases (cw : Word) (width srate : Nat) (s : State) :
    createBuffer cw width srate s = raise .ecfg cw s ∨
      (Config.WidthLegal width ∧ srate ≠ 0 ∧
        createBuffer cw width srate s = clearFault (s.create (BitVec.ofNat 3 width) (BitVec.ofNat 24 srate))) := by
  by_cases h : ¬Config.WidthLegal width ∨ srate = 0
  · exact .inl (if_pos h)
  · obtain ⟨hw, hr⟩ := not_or.mp h
    exact .inr ⟨not_not.mp hw, hr, if_neg h⟩

/-- Everything OPEN can do (R112): create the buffer on a closed session, or touch at most the fault record. -/
theorem exec_openBuf_cases {width srate : Nat} {s t : State} (h : exec (.openBuf width srate) s = .next t) :
    (∃ code info, t = s.record code info) ∨
      (s.session = .closed ∧ Config.WidthLegal width ∧ srate ≠ 0 ∧
        t = clearFault (s.create (BitVec.ofNat 3 width) (BitVec.ofNat 24 srate))) := by
  cases h
  by_cases hs : s.session = .closed
  · rw [accept_underFault hs]
    rcases createBuffer_cases (encode (.openBuf width srate)) width srate s with e | ⟨hw, hr, e⟩ <;> rw [e]
    · exact .inl (raise_record ..)
    · exact .inr ⟨hs, hw, hr, rfl⟩
  · exact .inl (accept_of_session_ne hs ..)

/-- A command that finds the session closed touches at most the fault record, unless it is an OPEN that succeeds. -/
theorem exec_of_closed {i : Instr} {s t : State} (hs : s.session = .closed) (h : exec i s = .next t) :
    (∃ code info, t = s.record code info) ∨ ∃ width srate, i = .openBuf width srate ∧ t.session = .opened := by
  have hne : s.session ≠ .opened := by simp [hs]
  cases hi : emits i with
  | true =>
    rw [exec_of_emits hi] at h
    cases h
    exact .inl (accept_of_session_ne hne ..)
  | false =>
    rcases not_emits_iff.mp hi with rfl | ⟨width, srate, rfl⟩
    · cases h
      exact .inl (accept_of_session_ne hne ..)
    · rcases exec_openBuf_cases h with hrec | ⟨-, -, -, rfl⟩
      · exact .inl hrec
      · exact .inr ⟨width, srate, rfl, rfl⟩

/-- FLUSH changes neither a counter nor the configuration (R24 item 6). -/
theorem exec_flush_keeps {s t : State} (h : exec .flush s = .next t) :
    t.emitted = s.emitted ∧ t.pulses = s.pulses ∧ t.width = s.width ∧ t.srate = s.srate := by
  cases h
  rcases accept_cases .opened true (encode .flush) flushBuffer s with ⟨-, -, e⟩ | ⟨-, -, e⟩ | ⟨-, -, e⟩ <;>
    rw [e] <;> exact ⟨rfl, rfl, rfl, rfl⟩

/-- Pulses, all of them or the first few, leave the configuration (R111). -/
theorem emitPulses_config (cw : Word) (train : List Nat) (s : State) :
    (emitPulses cw train s).width = s.width ∧ (emitPulses cw train s).srate = s.srate := by
  rcases emitPulses_cases cw train s with ⟨-, e⟩ | ⟨n, -, -, -, e⟩ <;> rw [e]
  · exact ⟨rfl, rfl⟩
  · exact ⟨raise_width .., raise_srate ..⟩

/-- Only OPEN changes the configuration (R17, R111). -/
theorem exec_config {i : Instr} (hi : ∀ width srate, i ≠ .openBuf width srate) {s t : State} (h : exec i s = .next t) :
    t.width = s.width ∧ t.srate = s.srate := by
  cases hem : emits i with
  | true =>
    rw [exec_of_emits hem] at h
    cases h
    rcases emitCommand_cases (encode i) (topFreqOf i) (pulsesOf i) s with
      ⟨-, -, -, e⟩ | ⟨-, -, -, e⟩ | ⟨-, -, e⟩ | ⟨-, e⟩ <;> rw [e]
    · exact emitPulses_config ..
    all_goals exact ⟨rfl, rfl⟩
  | false =>
    rcases not_emits_iff.mp hem with rfl | ⟨width, srate, rfl⟩
    · obtain ⟨-, -, hwidth, hsrate⟩ := exec_flush_keeps h
      exact ⟨hwidth, hsrate⟩
    · exact absurd rfl (hi width srate)

/-! ### The operands of a decoded word are in range (`30_encoding.md` R53) -/

theorem decodePlain_eq {w : Word} {mk : Nat → Instr} {i : Instr} (h : decodePlain w mk = .command i) :
    i = mk (field w 23 8) := by
  unfold decodePlain at h
  split_ifs at h
  cases h
  rfl

theorem decode_wf {w : Word} {i : Instr} (h : decode w = .command i) : i.wf = true := by
  have hfreq := field_lt w 23 8
  have hdata := field_lt w 7 0
  have hwidth := field_lt w 26 24
  have hsrate := field_lt w 23 0
  unfold decode at h
  split at h
  case h_1 | h_4 | h_5 =>
    rw [decodePlain_eq h]
    simpa [Instr.wf] using hfreq
  case h_2 =>
    unfold decodeBit at h
    split_ifs at h
    cases h
    simpa [Instr.wf] using hfreq
  case h_3 =>
    unfold decodeByte at h
    split_ifs at h
    cases h
    simpa [Instr.wf] using And.intro hfreq hdata
  case h_6 =>
    unfold decodeFlush at h
    split_ifs at h
    cases h
    rfl
  case h_7 =>
    unfold decodeOpen at h
    split_ifs at h
    cases h
    simpa [Instr.wf] using And.intro hwidth hsrate
  case h_8 => cases h

/-! ### What a step can do -/

/-- Everything a step can do: stand idle, answer a read, ignore a write, carry out a command word, or reset. -/
inductive StepCase (s t : State) : Prop where
  /-- No input waits (R150). -/
  | idle (hin : s.inbox = []) (ht : t = s)
  /-- A read changes only the record of answers (R33). -/
  | read (size : AccessSize) (off : Nat) (rest : List Input) (hin : s.inbox = .read size off :: rest)
      (ht : t = (s.withInbox rest).answer (busRead size off (s.withInbox rest)))
  /-- A write that is not a 32-bit write of `CMD` (R34, R37). -/
  | ignored (size : AccessSize) (off : Nat) (v : Word) (rest : List Input) (hin : s.inbox = .write size off v :: rest)
      (hmiss : size ≠ .word ∨ off ≠ 0x00) (ht : t = s.withInbox rest)
  /-- A `CMD` write of a word that decodes (R134). -/
  | command (w : Word) (i : Instr) (rest : List Input) (hin : s.inbox = cmdWrite w :: rest)
      (hdec : decode w = .command i) (ht : exec i (s.withInbox rest) = .next t)
  /-- A `CMD` write of a word that does not (R131, R135). -/
  | illegal (w : Word) (why : Illegal) (rest : List Input) (hin : s.inbox = cmdWrite w :: rest)
      (hdec : decode w = .illegal why) (ht : t = raise .eill w (s.withInbox rest))
  /-- The reset input (R160). -/
  | reset (rest : List Input) (hin : s.inbox = .reset :: rest) (ht : t = (s.withInbox rest).restart)

theorem step_of_inbox_nil {s : State} (h : s.inbox = []) : step s = .next s := by
  simp [step, nextInput, h]

theorem step_of_inbox_cons {s : State} {x : Input} {rest : List Input} (h : s.inbox = x :: rest) :
    step s = takeInput x (s.withInbox rest) := by
  simp [step, nextInput, h]

theorem busWrite_of_not_cmd {size : AccessSize} {off : Nat} (h : size ≠ .word ∨ off ≠ 0x00) (v : Word) (s : State) :
    busWrite size off v s = .next s := by
  cases size with
  | byte | half => rfl
  | word =>
    have hoff : off ≠ 0 := h.resolve_left (· rfl)
    simp [busWrite, regWrite]

theorem step_cases {s t : State} (h : step s = .next t) : StepCase s t := by
  cases hin : s.inbox with
  | nil =>
    rw [step_of_inbox_nil hin] at h
    cases h
    exact .idle hin rfl
  | cons x rest =>
    rw [step_of_inbox_cons hin] at h
    cases x with
    | read size off =>
      cases h
      exact .read size off rest hin rfl
    | reset =>
      cases h
      exact .reset rest hin rfl
    | write size off w =>
      by_cases hcmd : size = .word ∧ off = 0x00
      · obtain ⟨rfl, rfl⟩ := hcmd
        change execute w (s.withInbox rest) = .next t at h
        unfold execute at h
        cases hdec : decode w with
        | command i =>
          rw [hdec] at h
          exact .command w i rest hin hdec h
        | illegal why =>
          rw [hdec] at h
          cases h
          exact .illegal w why rest hin hdec rfl
      · have hmiss := not_and_or.mp hcmd
        change busWrite size off w (s.withInbox rest) = .next t at h
        rw [busWrite_of_not_cmd hmiss] at h
        cases h
        exact .ignored size off w rest hin hmiss rfl

/-! ### What keeps the invariant of R24 -/

namespace State.Inv

variable {s : State}

/-- The invariant does not read the inputs still to arrive. -/
theorem withInbox (h : s.Inv) (inbox : List Input) : (s.withInbox inbox).Inv := { h with }

/-- The invariant does not read the record of answers. -/
theorem answer (h : s.Inv) (v : Word) : (s.answer v).Inv := { h with }

/-- The reset values are a legal configuration, zero counters and an empty stream (R25). -/
theorem reset : State.reset.Inv := by
  constructor <;> simp [Config.WidthLegal, sessionsOf]

/-- A reset leaves the invariant's elements at their reset values, whatever came before it (R160). -/
theorem restart (s : State) : s.restart.Inv := { reset with }

theorem record (h : s.Inv) {code : BitVec 4} {w : Word} (hcode : code.toNat ≤ 5) (hw : code = 0#4 → w = 0) :
    (s.record code w).Inv :=
  { h with causeRange := hcode, errinfoZero := hw }

theorem record_code (h : s.Inv) (c : Cause) (w : Word) : (s.record c.code w).Inv :=
  h.record c.code_le_five (fun h0 => absurd h0 c.code_ne_zero)

theorem raise (h : s.Inv) (c : Cause) (w : Word) : (raise c w s).Inv := by
  by_cases hc : s.cause = 0#4
  · rw [raise_clear hc]
    exact h.record_code c w
  · rwa [raise_recorded hc]

theorem accept (h : s.Inv) {needs : Session} {underFault : Bool} {cw : Word} {act : State → State}
    (hact : s.session = needs → (act s).Inv) : (accept needs underFault cw act s).Inv := by
  rcases accept_cases needs underFault cw act s with ⟨hs, -, e⟩ | ⟨-, -, e⟩ | ⟨-, -, e⟩ <;> rw [e]
  · exact hact hs
  · exact h.record_code .eseq cw
  · exact h

/-- Pulses that fit keep the invariant: each adds at least two samples, and every sample its bytes. -/
theorem afterPulses (h : s.Inv) (hs : s.session = .opened) {train : List Nat}
    (hlegal : ∀ fp ∈ train, freqOk fp s.srate = true) (hfit : s.samplesAfter train ≤ Config.maxSamples) :
    (s.afterPulses train).Inv := by
  have hstream := sessionsOf_afterPulses s train
  have hopen : (s.afterPulses train).session ≠ .closed := by simp [State.afterPulses, hs]
  exact
    { h with
      pulsesBound := by
        have hcount : s.emitted.toNat + 2 * train.length ≤ s.samplesAfter train :=
          add_two_mul_length_le_samplesAfter hlegal _
        have hbound := h.pulsesBound
        rw [afterPulses_emitted hfit, afterPulses_pulses (by unfold Config.maxSamples at hfit; omega)]
        omega
      openBytes := fun _ => by
        rw [afterPulses_emitted hfit, hstream, List.length_append, h.openBytes hs]
        exact trainBytes_length h.widthLegal _ _ _
      closedQuiet := fun hc => absurd hc hopen
      neverOpened := fun hc => absurd hc hopen
      lastClosed := fun hc => absurd hc hopen
      closedSound := by rw [hstream]; exact h.closedSound }

/-- Pulses at legal frequencies keep the invariant, whether all of them fit or only the first few (R137). -/
theorem emitPulses (h : s.Inv) (hs : s.session = .opened) (cw : Word) {train : List Nat}
    (hlegal : ∀ fp ∈ train, freqOk fp s.srate = true) : (emitPulses cw train s).Inv := by
  rcases emitPulses_cases cw train s with ⟨hfit, e⟩ | ⟨n, -, hfit, -, e⟩ <;> rw [e]
  · exact h.afterPulses hs hlegal hfit
  · exact (h.afterPulses hs (fun fp hfp => hlegal fp (List.mem_of_mem_take hfp)) hfit).raise .eovf cw

theorem emitCommand (h : s.Inv) (cw : Word) {topFreq : Nat} {train : List Nat}
    (hlegal : freqOk topFreq s.srate = true → ∀ fp ∈ train, freqOk fp s.srate = true) :
    (emitCommand cw topFreq train s).Inv := by
  rcases emitCommand_cases cw topFreq train s with ⟨hs, -, hf, e⟩ | ⟨-, -, -, e⟩ | ⟨-, -, e⟩ | ⟨-, e⟩ <;> rw [e]
  · exact h.emitPulses hs cw (hlegal hf)
  · exact h.record_code .efreq cw
  · exact h.record_code .eseq cw
  · exact h

theorem closingSession_length (h : s.Inv) (hs : s.session = .opened) : (closingSession s).data.length =
    s.width.toNat * s.emitted.toNat + padCount s.width.toNat s.emitted.toNat := by
  rw [closingSession, List.length_append, List.length_replicate, h.openBytes hs]

theorem closingSession_sound (h : s.Inv) (hs : s.session = .opened) : (closingSession s).Sound := by
  obtain ⟨heven, hwhole⟩ := padded_length_mod h.widthLegal s.emitted.toNat
  rw [← h.closingSession_length hs] at heven hwhole
  exact ⟨rfl, h.widthLegal, h.rateLegal, heven, hwhole⟩

theorem flushBuffer (h : s.Inv) (hs : s.session = .opened) : (flushBuffer s).Inv := by
  have hstream := sessionsOf_flushBuffer s
  exact
    { h with
      openBytes := nofun
      closedQuiet := fun _ => by rw [hstream]
      neverOpened := fun _ hnil => by simp [hstream] at hnil
      lastClosed := fun _ c hc => by
        obtain rfl : closingSession s = c := by simpa [hstream] using hc
        exact ⟨rfl, rfl, h.closingSession_length hs⟩
      closedSound := fun c hc => by
        rw [hstream, List.mem_append, List.mem_singleton] at hc
        rcases hc with hc | rfl
        · exact h.closedSound c hc
        · exact h.closingSession_sound hs }

/-- A successful OPEN starts from an empty session and zero counters (R112). -/
theorem create (h : s.Inv) (hs : s.session = .closed) {w : BitVec 3} {r : BitVec 24} (hw : Config.WidthLegal w.toNat)
    (hr : 1 ≤ r.toNat) : (clearFault (s.create w r)).Inv where
  widthLegal := hw
  rateLegal := hr
  causeRange := Nat.zero_le _
  errinfoZero _ := rfl
  pulsesBound := le_rfl
  openBytes _ := by
    change (sessionsOf s.out).current.length = w.toNat * 0
    rw [h.closedQuiet hs]
    rfl
  closedQuiet := nofun
  neverOpened := nofun
  lastClosed := nofun
  closedSound := h.closedSound

theorem createBuffer (h : s.Inv) (hs : s.session = .closed) (cw : Word) (width : Nat) {srate : Nat}
    (hr : srate < 2 ^ 24) : (createBuffer cw width srate s).Inv := by
  rcases createBuffer_cases cw width srate s with e | ⟨hw, hpos, e⟩ <;> rw [e]
  · exact h.raise .ecfg cw
  · have hrate : (BitVec.ofNat 24 srate).toNat = srate := Nat.mod_eq_of_lt hr
    refine h.create hs ?_ (by omega)
    rcases hw with rfl | rfl
    · exact .inl rfl
    · exact .inr rfl

/-- A command with operands in range keeps the invariant. -/
theorem exec {i : Instr} {t : State} (h : s.Inv) (hwf : i.wf = true) (ht : exec i s = .next t) : t.Inv := by
  cases hi : emits i with
  | true =>
    rw [exec_of_emits hi] at ht
    cases ht
    exact h.emitCommand _ (fun hf _ hfp => freqOk_of_mem_pulsesOf hf hfp)
  | false =>
    rcases not_emits_iff.mp hi with rfl | ⟨width, srate, rfl⟩
    · cases ht
      exact h.accept h.flushBuffer
    · obtain ⟨-, hr⟩ : width < 8 ∧ srate < 2 ^ 24 := by simpa [Instr.wf] using hwf
      cases ht
      exact h.accept (fun hs => h.createBuffer hs _ width hr)

theorem step {t : State} (h : s.Inv) (ht : step s = .next t) : t.Inv := by
  cases step_cases ht with
  | idle _ e => exact e ▸ h
  | read _ _ rest _ e => exact e ▸ (h.withInbox rest).answer _
  | ignored _ _ _ rest _ _ e => exact e ▸ h.withInbox rest
  | command _ _ rest _ hdec hexec => exact (h.withInbox rest).exec (decode_wf hdec) hexec
  | illegal w _ rest _ _ e => exact e ▸ (h.withInbox rest).raise .eill w
  | reset rest _ e => exact e ▸ restart _

end State.Inv

/-- From a closed session a step changes a counter or the configuration only by a reset or a successful OPEN (R24 item 6). -/
theorem step_of_closed {s t : State} (hs : s.session = .closed) (h : step s = .next t) :
    (t.emitted = s.emitted ∧ t.pulses = s.pulses ∧ t.width = s.width ∧ t.srate = s.srate) ∨
      s.inbox.head? = some .reset ∨
      ∃ w width srate, s.inbox.head? = some (cmdWrite w) ∧ decode w = .command (.openBuf width srate) ∧
        t.session = .opened := by
  cases step_cases h with
  | idle _ e | read _ _ _ _ e | ignored _ _ _ _ _ _ e => exact .inl (e ▸ ⟨rfl, rfl, rfl, rfl⟩)
  | illegal _ _ _ _ _ e => exact .inl (by simp [e])
  | reset _ hin _ => exact .inr (.inl (by simp [hin]))
  | command w i rest hin hdec hexec =>
    rcases exec_of_closed (s := s.withInbox rest) hs hexec with ⟨_, _, e⟩ | ⟨width, srate, rfl, ho⟩
    · exact .inl (e ▸ ⟨rfl, rfl, rfl, rfl⟩)
    · exact .inr (.inr ⟨w, width, srate, by simp [hin], hdec, ho⟩)

/-- Settles O59: reset meets R24's invariant, and each way a step can go keeps it. -/
theorem everyStepKeepsTheInvariant : Obligations.EveryStepKeepsTheInvariant :=
  ⟨State.Inv.reset, fun _ _ => State.Inv.step, fun _ _ => exec_flush_keeps, fun _ _ => step_of_closed⟩

/-! ### The registers `STATUS` and `CFG` (`10_state.md` R16, R17) -/

@[simp] theorem regRead_status (s : State) : regRead 0x04 s = statusWord s := rfl

@[simp] theorem regRead_cfg (s : State) : regRead 0x08 s = cfgWord s := rfl

/-- A write to a register other than `CMD` only takes the input (R34). -/
theorem step_of_write_elsewhere {s : State} {size : AccessSize} {off : Nat} {v : Word} {rest : List Input}
    (hoff : off ≠ 0x00) (h : s.inbox = .write size off v :: rest) : step s = .next (s.withInbox rest) :=
  (step_of_inbox_cons h).trans (busWrite_of_not_cmd (.inr hoff) v _)

theorem extractLsb_toNat_div_mod (w : Word) (hi lo : Nat) :
    (w.extractLsb hi lo).toNat = w.toNat / 2 ^ lo % 2 ^ (hi - lo + 1) := by
  rw [BitVec.extractLsb_toNat, Nat.shiftRight_eq_div_pow]

theorem getLsbD_iff_div_mod (w : Word) (n : Nat) : w.getLsbD n = true ↔ w.toNat / 2 ^ n % 2 = 1 := by
  rw [BitVec.getLsbD, Nat.testBit_eq_decide_div_mod_eq, decide_eq_true_iff]

theorem Session.bit_lt_two (x : Session) : x.bit < 2 := by cases x <;> decide

theorem Session.bit_eq_one_iff {x : Session} : x.bit = 1 ↔ x = .opened := by cases x <;> decide

theorem faulted_iff {s : State} : (faulted s).toNat = 1 ↔ s.cause ≠ 0#4 := by
  simp [faulted]

theorem statusWord_toNat (s : State) :
    (statusWord s).toNat = s.session.bit + 2 * (faulted s).toNat + 256 * s.cause.toNat := by
  have hsession := s.session.bit_lt_two
  have hfault := (faulted s).toNat_lt
  have hcause := s.cause.isLt
  exact Nat.mod_eq_of_lt (by omega)

theorem cfgWord_toNat (s : State) : (cfgWord s).toNat = s.srate.toNat + 2 ^ 24 * s.width.toNat := by
  have hsrate := s.srate.isLt
  have hwidth := s.width.isLt
  exact Nat.mod_eq_of_lt (by omega)

/-- The fields of `STATUS` (R16): each is a digit of the sum the word is. -/
theorem statusWord_fields (s : State) :
    ((statusWord s).getLsbD 0 = true ↔ s.session = .opened) ∧
    ((statusWord s).getLsbD 1 = true ↔ s.cause ≠ 0#4) ∧
    (statusWord s).extractLsb 7 2 = 0 ∧
    (statusWord s).extractLsb 11 8 = s.cause ∧
    (statusWord s).extractLsb 31 12 = 0 := by
  have hsession := s.session.bit_lt_two
  have hfault := (faulted s).toNat_lt
  have hcause := s.cause.isLt
  have hword := statusWord_toNat s
  refine ⟨?_, ?_, BitVec.eq_of_toNat_eq ?_, BitVec.eq_of_toNat_eq ?_, BitVec.eq_of_toNat_eq ?_⟩
  · rw [getLsbD_iff_div_mod, ← Session.bit_eq_one_iff]
    omega
  · rw [getLsbD_iff_div_mod, ← faulted_iff]
    omega
  all_goals rw [extractLsb_toNat_div_mod]
  · change _ = 0
    omega
  · omega
  · change _ = 0
    omega

/-- The fields of `CFG` (R17). -/
theorem cfgWord_fields (s : State) :
    (cfgWord s).extractLsb 23 0 = s.srate ∧
    (cfgWord s).extractLsb 26 24 = s.width ∧
    (cfgWord s).extractLsb 31 27 = 0 := by
  have hsrate := s.srate.isLt
  have hwidth := s.width.isLt
  have hword := cfgWord_toNat s
  refine ⟨BitVec.eq_of_toNat_eq ?_, BitVec.eq_of_toNat_eq ?_, BitVec.eq_of_toNat_eq ?_⟩
  all_goals rw [extractLsb_toNat_div_mod]
  · omega
  · omega
  · change _ = 0
    omega

theorem cfgWord_congr {s t : State} (hw : t.width = s.width) (hr : t.srate = s.srate) : cfgWord t = cfgWord s := by
  rw [cfgWord, cfgWord, hw, hr]

/-- Settles O47: `STATUS` is the sum of its fields, and no write reaches it. -/
theorem statusShowsSessionAndCause : Obligations.StatusShowsSessionAndCause :=
  ⟨statusWord_fields, by decide, fun _ _ _ => step_of_write_elsewhere (by decide)⟩

/-- After a successful OPEN `CFG` shows its operands (R17, R112). -/
theorem exec_openBuf_cfg {s : State} {width srate : Nat} (hs : s.session = .closed) (hw : width = 1 ∨ width = 2)
    (hpos : srate ≠ 0) (hr : srate < 2 ^ 24) :
    ∃ t, exec (.openBuf width srate) s = .next t ∧ (cfgWord t).toNat = srate + 2 ^ 24 * width := by
  refine ⟨_, rfl, ?_⟩
  have hbad : ¬(¬Config.WidthLegal width ∨ srate = 0) := by simp [Config.WidthLegal, hw, hpos]
  rw [accept_underFault hs, createBuffer, if_neg hbad, cfgWord_toNat]
  change srate % 2 ^ 24 + 2 ^ 24 * (width % 2 ^ 3) = _
  omega

/-- An OPEN that leaves a fault recorded has not changed `CFG`. -/
theorem exec_openBuf_failed_cfg {s t : State} {width srate : Nat} (h : exec (.openBuf width srate) s = .next t)
    (hc : t.cause ≠ 0#4) : cfgWord t = cfgWord s := by
  rcases exec_openBuf_cases h with ⟨_, _, rfl⟩ | ⟨-, -, -, rfl⟩
  · rfl
  · exact absurd rfl hc

/-- Settles O48: `CFG` is the sum of its fields, and only a successful OPEN changes the two elements it shows. -/
theorem cfgShowsTheConfiguration : Obligations.CfgShowsTheConfiguration := by
  refine ⟨cfgWord_fields, by decide, fun _ _ _ => step_of_write_elsewhere (by decide),
    fun _ _ _ => exec_openBuf_cfg, fun s h => ?_, fun _ _ _ _ => exec_openBuf_failed_cfg, fun i s t hi h => ?_⟩
  · obtain ⟨hsrate, hwidth, -⟩ := cfgWord_fields s
    rw [regRead_cfg, hsrate, hwidth]
    exact ⟨h.rateLegal, h.widthLegal.imp (BitVec.eq_of_toNat_eq ·) (BitVec.eq_of_toNat_eq ·)⟩
  · obtain ⟨hwidth, hsrate⟩ := exec_config hi h
    exact cfgWord_congr hwidth hsrate

/-- Settles O54: the elements are the literals of R10's table, and the registers compute from them. -/
theorem resetValuesAreAsSpecified : Obligations.ResetValuesAreAsSpecified :=
  ⟨rfl, rfl, rfl, rfl, rfl, rfl, rfl, rfl, by decide⟩

end Sys2Proof.Machine

/-! What the host's reads and writes of the register window do. From these the statements of `20_memory.md`. -/

namespace Sys2Proof

/-! ### A decoded command encodes to the word it came from (`30_encoding.md` R55) -/

theorem decodePlain_zeros {w : Word} {mk : Nat → Instr} {i : Instr} (h : decodePlain w mk = .command i) :
    field w 27 24 = 0 ∧ field w 7 0 = 0 := by
  unfold decodePlain at h
  split_ifs at h with hrsv hdata
  exact ⟨not_not.mp hrsv, not_not.mp hdata⟩

/-- The operand fields with the opcode and the zeros `decode` requires make up the whole word. -/
theorem encodeNat_of_decode {w : Word} {i : Instr} (h : decode w = .command i) : encodeNat i = w.toNat := by
  have hw := w.isLt
  unfold decode at h
  split at h
  case h_1 hop | h_4 hop | h_5 hop =>
    obtain ⟨hrsv, hdata⟩ := decodePlain_zeros h
    rw [field_31_28] at hop
    rw [field_27_24] at hrsv
    rw [field_7_0] at hdata
    rw [Machine.decodePlain_eq h, encodeNat, field_23_8]
    omega
  case h_2 hop =>
    unfold decodeBit at h
    split_ifs at h with hrsv hdata
    cases h
    have hbit : (decide (field w 0 0 = 1)).toNat = w.toNat % 2 := by
      rw [field_0_0]
      rcases Nat.mod_two_eq_zero_or_one w.toNat with h0 | h1
      · simp [h0]
      · simp [h1]
    rw [field_31_28] at hop
    rw [field_27_24] at hrsv
    rw [field_7_1] at hdata
    rw [encodeNat, field_23_8, hbit]
    omega
  case h_3 hop =>
    unfold decodeByte at h
    split_ifs at h with hrsv
    cases h
    rw [field_31_28] at hop
    rw [field_27_24] at hrsv
    rw [encodeNat, field_23_8, field_7_0]
    omega
  case h_6 hop =>
    unfold decodeFlush at h
    split_ifs at h with hzero
    cases h
    rw [field_31_28] at hop
    rw [field_27_0] at hzero
    rw [encodeNat]
    omega
  case h_7 hop =>
    unfold decodeOpen at h
    split_ifs at h with hrsv
    cases h
    rw [field_31_28] at hop
    rw [field_27_27] at hrsv
    rw [encodeNat, field_26_24, field_23_0]
    omega
  case h_8 => cases h

theorem encode_of_decode {w : Word} {i : Instr} (h : decode w = .command i) : encode i = w := by
  rw [encode, encodeNat_of_decode h, BitVec.ofNat_toNat, BitVec.setWidth_eq]

end Sys2Proof

namespace Sys2Proof.Machine

/-! ### Reads (R33) -/

/-- `RegRead` as R33 lists it, offset by offset. -/
theorem regRead_eq (off : Nat) (s : State) :
    regRead off s =
      if off = 0x04 then statusWord s
      else if off = 0x08 then cfgWord s
      else if off = 0x0C then s.emitted
      else if off = 0x10 then s.pulses
      else if off = 0x14 then s.errinfo
      else 0 := by
  unfold regRead
  split
  case h_6 h4 h8 hC h10 h14 => rw [if_neg h4, if_neg h8, if_neg hC, if_neg h10, if_neg h14]
  all_goals rfl

/-- A register does not show the inputs still to arrive. -/
@[simp] theorem regRead_withInbox (off : Nat) (s : State) (inbox : List Input) :
    regRead off (s.withInbox inbox) = regRead off s := rfl

/-- A register does not show what earlier reads were answered. -/
@[simp] theorem regRead_answer (off : Nat) (s : State) (v : Word) : regRead off (s.answer v) = regRead off s := rfl

/-- A 32-bit read takes the input and records the register at its offset. -/
theorem step_of_read {s : State} {off : Nat} {rest : List Input} (h : s.inbox = .read .word off :: rest) :
    step s = .next ((s.withInbox rest).answer (regRead off s)) :=
  step_of_inbox_cons h

/-- Settles O49: a read records `RegRead` and touches nothing a register shows, so the next one reads the same. -/
theorem readsAnswerAndChangeNothing : Obligations.ReadsAnswerAndChangeNothing := by
  refine ⟨fun s off rest h => ?_, fun s off rest h => ?_⟩
  · rw [step_of_read h, regRead_eq]
    rfl
  · refine ⟨_, _, regRead off s, step_of_read h, step_of_read rfl, ?_⟩
    simp

/-! ### `Execute`, read line by line (`60_exceptions.md` R134) -/

/-- From a state with no fault recorded a list of pulses does what R78 writes out. -/
theorem emitPulses_eq_reference (w : Word) (train : List Nat) {s : State} (hc : s.cause = 0#4) :
    emitPulses w train s = referencePulses w train s := by
  induction train generalizing s with
  | nil => rfl
  | cons fp rest ih =>
    rw [emitPulses, emitPulse, referencePulses]
    by_cases hover : s.emitted.toNat + lowSamples s.srate.toNat fp s.emitted.toNat
        + highSamples s.srate.toNat fp s.emitted.toNat > Config.maxSamples
    · rw [if_pos hover]
      exact (raise_clear hc).trans (if_pos hover).symm
    · rw [if_neg hover]
      change emitPulses w rest _ = _
      rw [ih (by simpa using hc)]
      refine Eq.trans ?_ (if_neg hover).symm
      simp only [State.append, State.countPulse, List.append_assoc, Nat.add_assoc]

/-- The check on `Fmax` (R81) and the pulses after it. -/
theorem checkedPulses_eq_reference (w : Word) (topFreq : Nat) (train : List Nat) {s : State} (hc : s.cause = 0#4) :
    (if freqOk topFreq s.srate then emitPulses w train s else raise .efreq w s) = referenceEmit w topFreq train s := by
  have hok : freqOk topFreq s.srate = true ↔ ¬(topFreq = 0 ∨ 2 * topFreq > s.srate.toNat) := by
    rw [freqOk_iff]
    omega
  rw [referenceEmit, emitPulses_eq_reference w train hc, raise_clear hc]
  simp only [hok, ite_not]
  rfl

theorem flushBuffer_eq_reference (s : State) : flushBuffer s = referenceFlush s := by
  have hflt : faulted s = if s.cause = 0#4 then false else true := by
    by_cases hc : s.cause = 0#4 <;> simp [faulted, hc]
  simp only [flushBuffer, referenceFlush, handOff, hflt, State.append, State.close, ← List.append_assoc]
  rfl

theorem createBuffer_eq_reference (w : Word) (width srate : Nat) (s : State) :
    createBuffer w width srate s = referenceOpen w width srate s := by
  simp only [createBuffer, referenceOpen, Config.WidthLegal, not_or]
  rfl

theorem illegalWord_eq_reference {w : Word} {why : Illegal} (h : decode w = .illegal why) (s : State) :
    illegalWord w s = referenceExecute w s := by
  unfold illegalWord
  by_cases hc : s.cause = 0#4
  · rw [raise_clear hc]
    simp [referenceExecute, h, hc, State.record, Cause.code]
  · rw [raise_recorded hc]
    simp [referenceExecute, h, hc]

theorem Session.eq_closed_of_ne {x : Session} (h : x ≠ .opened) : x = .closed := by cases x <;> trivial

theorem Session.eq_opened_of_ne {x : Session} (h : x ≠ .closed) : x = .opened := by cases x <;> trivial

/-- FLUSH on a session it fits, fault or no fault; else `ESEQ`, or discarded (R134, R135). -/
theorem acceptFlush_eq_reference {w : Word} (h : decode w = .command .flush) (s : State) :
    accept .opened true w flushBuffer s = referenceExecute w s := by
  rcases accept_cases .opened true w flushBuffer s with ⟨hs, -, e⟩ | ⟨hs, hc, e⟩ | ⟨hc, hdiscard, e⟩ <;> rw [e]
  · simp [referenceExecute, h, hs, flushBuffer_eq_reference]
  · simp [referenceExecute, h, hc, Session.eq_closed_of_ne hs, State.record, Cause.code]
  · simp [referenceExecute, h, hc, hdiscard.resolve_left (by decide)]

/-- OPEN likewise (R134, R135). -/
theorem acceptOpen_eq_reference {w : Word} {width srate : Nat} (h : decode w = .command (.openBuf width srate))
    (s : State) : accept .closed true w (createBuffer w width srate) s = referenceExecute w s := by
  rcases accept_cases .closed true w (createBuffer w width srate) s with
    ⟨hs, -, e⟩ | ⟨hs, hc, e⟩ | ⟨hc, hdiscard, e⟩ <;> rw [e]
  · simp [referenceExecute, h, hs, createBuffer_eq_reference]
  · simp [referenceExecute, h, hc, Session.eq_opened_of_ne hs, State.record, Cause.code]
  · simp [referenceExecute, h, hc, hdiscard.resolve_left (by decide)]

/-- R134 for the five emitting commands: discarded under a fault, `ESEQ` on a closed session, else carried out. -/
theorem referenceExecute_of_emits {w : Word} {i : Instr} (h : decode w = .command i) (hi : emits i = true) (s : State) :
    referenceExecute w s =
      if s.cause ≠ 0#4 then s
      else if s.session = .closed then { s with cause := 2, errinfo := w }
      else referenceEmit w (topFreqOf i) (pulsesOf i) s := by
  unfold referenceExecute
  rw [h]
  cases i with
  | pulse | bit | byte | shdr | lhdr => rfl
  | flush | openBuf => cases hi

theorem emitCommand_eq_reference {w : Word} {i : Instr} (h : decode w = .command i) (hi : emits i = true) (s : State) :
    emitCommand w (topFreqOf i) (pulsesOf i) s = referenceExecute w s := by
  rw [emitCommand, referenceExecute_of_emits h hi]
  rcases accept_cases .opened false w
      (fun u => if freqOk (topFreqOf i) u.srate then emitPulses w (pulsesOf i) u else raise .efreq w u) s
    with ⟨hs, hc, e⟩ | ⟨hs, hc, e⟩ | ⟨hc, -, e⟩ <;> rw [e]
  · have hc : s.cause = 0#4 := hc.resolve_right (by decide)
    simp [hc, hs, checkedPulses_eq_reference w (topFreqOf i) (pulsesOf i) hc]
  · simp [hc, Session.eq_closed_of_ne hs, State.record, Cause.code]
  · simp [hc]

/-- `Execute` is what R134 writes out, one kind of word at a time; a command records the word written (R55). -/
theorem execute_eq_reference (w : Word) (s : State) : execute w s = .next (referenceExecute w s) := by
  unfold execute
  cases hdec : decode w with
  | illegal why => exact congrArg _ (illegalWord_eq_reference hdec s)
  | command i =>
    have hcw := encode_of_decode hdec
    cases hi : emits i with
    | true =>
      rw [← emitCommand_eq_reference hdec hi]
      exact hcw ▸ exec_of_emits hi s
    | false =>
      rcases not_emits_iff.mp hi with rfl | ⟨width, srate, rfl⟩
      · rw [← acceptFlush_eq_reference hdec, ← hcw]
        rfl
      · rw [← acceptOpen_eq_reference hdec, ← hcw]
        rfl

/-- A write of `CMD` executes its word (R34, R134). -/
theorem step_of_cmdWrite {s : State} {w : Word} {rest : List Input} (h : s.inbox = cmdWrite w :: rest) :
    step s = .next (referenceExecute w (s.withInbox rest)) :=
  (step_of_inbox_cons h).trans (execute_eq_reference w _)

/-- Settles O50: at `CMD` the step is R134's `Execute`, and anywhere else the write is ignored. -/
theorem writesActOnlyAtCmd : Obligations.WritesActOnlyAtCmd :=
  ⟨fun _ _ _ => step_of_cmdWrite, fun _ _ _ _ hoff => step_of_write_elsewhere hoff⟩

end Sys2Proof.Machine

/-! What `Decode` answers, said once over the fields of a word, and the words each row of the opcode map selects. From these
the statements of `30_encoding.md` about command words. -/

namespace Sys2Proof

/-! ### The bits of a word as its fields (`30_encoding.md` R7, R50) -/

theorem extractLsb_toNat_eq_field (w : Word) {hi lo : Nat} (h : lo ≤ hi) : (w.extractLsb hi lo).toNat = field w hi lo := by
  rw [Machine.extractLsb_toNat_div_mod, field, Nat.sub_add_comm h]

theorem extractLsb_eq_iff (w : Word) {hi lo : Nat} (h : lo ≤ hi) (v : BitVec (hi - lo + 1)) :
    w.extractLsb hi lo = v ↔ field w hi lo = v.toNat := by
  rw [BitVec.toNat_eq, extractLsb_toNat_eq_field w h]

theorem getLsbD_eq_decide_field (w : Word) (n : Nat) : w.getLsbD n = decide (field w n n = 1) := by
  rw [Bool.eq_iff_iff, Machine.getLsbD_iff_div_mod, decide_eq_true_iff, field, Nat.add_sub_cancel_left, pow_one]

theorem getLsbD_eq_false_iff (w : Word) (n : Nat) : w.getLsbD n = false ↔ field w n n = 0 := by
  have hlt : field w n n < 2 := by simpa using field_lt w n n
  rw [getLsbD_eq_decide_field, decide_eq_false_iff_not]
  omega

/-! ### `Decode`, format by format (R51, R52) -/

section
variable {w : Word} {i : Instr}

/-- A test of a field that must be 0: the word goes on to be a command exactly when the field is 0. -/
theorem ite_illegal_eq_command_iff {n : Nat} {why : Illegal} {d : Decoded} :
    (if n ≠ 0 then .illegal why else d) = .command i ↔ n = 0 ∧ d = .command i := by
  by_cases h : n = 0 <;> simp [h]

theorem decodePlain_eq_command_iff {mk : Nat → Instr} :
    decodePlain w mk = .command i ↔ field w 27 24 = 0 ∧ field w 7 0 = 0 ∧ i = mk (field w 23 8) := by
  simp only [decodePlain, ite_illegal_eq_command_iff, Decoded.command.injEq, eq_comm (a := i)]

theorem decodeBit_eq_command_iff : decodeBit w = .command i ↔
    field w 27 24 = 0 ∧ field w 7 1 = 0 ∧ i = .bit (field w 23 8) (decide (field w 0 0 = 1)) := by
  simp only [decodeBit, ite_illegal_eq_command_iff, Decoded.command.injEq, eq_comm (a := i)]

theorem decodeByte_eq_command_iff :
    decodeByte w = .command i ↔ field w 27 24 = 0 ∧ i = .byte (field w 23 8) (field w 7 0) := by
  simp only [decodeByte, ite_illegal_eq_command_iff, Decoded.command.injEq, eq_comm (a := i)]

theorem decodeFlush_eq_command_iff : decodeFlush w = .command i ↔ field w 27 0 = 0 ∧ i = .flush := by
  simp only [decodeFlush, ite_illegal_eq_command_iff, Decoded.command.injEq, eq_comm (a := i)]

theorem decodeOpen_eq_command_iff :
    decodeOpen w = .command i ↔ field w 27 27 = 0 ∧ i = .openBuf (field w 26 24) (field w 23 0) := by
  simp only [decodeOpen, ite_illegal_eq_command_iff, Decoded.command.injEq, eq_comm (a := i)]

/-- R55's table of `Decode`, line by line, over the fields of the word. -/
theorem decode_eq_command_iff : decode w = .command i ↔
    (field w 31 28 = 1 ∧ field w 27 24 = 0 ∧ field w 7 0 = 0 ∧ i = .pulse (field w 23 8)) ∨
    (field w 31 28 = 2 ∧ field w 27 24 = 0 ∧ field w 7 1 = 0 ∧
      i = .bit (field w 23 8) (decide (field w 0 0 = 1))) ∨
    (field w 31 28 = 3 ∧ field w 27 24 = 0 ∧ i = .byte (field w 23 8) (field w 7 0)) ∨
    (field w 31 28 = 4 ∧ field w 27 24 = 0 ∧ field w 7 0 = 0 ∧ i = .shdr (field w 23 8)) ∨
    (field w 31 28 = 5 ∧ field w 27 24 = 0 ∧ field w 7 0 = 0 ∧ i = .lhdr (field w 23 8)) ∨
    (field w 31 28 = 6 ∧ field w 27 0 = 0 ∧ i = .flush) ∨
    (field w 31 28 = 7 ∧ field w 27 27 = 0 ∧ i = .openBuf (field w 26 24) (field w 23 0)) := by
  unfold decode
  split
  case h_1 hop | h_4 hop | h_5 hop => simp [hop, decodePlain_eq_command_iff]
  case h_2 hop => simp [hop, decodeBit_eq_command_iff]
  case h_3 hop => simp [hop, decodeByte_eq_command_iff]
  case h_6 hop => simp [hop, decodeFlush_eq_command_iff]
  case h_7 hop => simp [hop, decodeOpen_eq_command_iff]
  case h_8 h1 h2 h3 h4 h5 h6 h7 =>
    refine iff_of_false nofun ?_
    rintro (⟨h, -⟩ | ⟨h, -⟩ | ⟨h, -⟩ | ⟨h, -⟩ | ⟨h, -⟩ | ⟨h, -⟩ | ⟨h, -⟩)
    exacts [h1 h, h2 h, h3 h, h4 h, h5 h, h6 h, h7 h]

end

/-! ### `Decode` undoes `Encode` (R55) -/

/-- The fields of an encoded command are its operands: each is a digit of the number R55 writes. -/
theorem decode_encode {i : Instr} (h : i.wf = true) : decode (encode i) = .command i := by
  have hnum := encode_toNat h
  rw [decode_eq_command_iff]
  simp only [field_31_28, field_27_24, field_27_27, field_27_0, field_26_24, field_23_8, field_23_0, field_7_0, field_7_1,
    field_0_0, hnum]
  cases i with
  | pulse f | shdr f | lhdr f =>
    have hf : f < 65536 := by simpa [Instr.wf] using h
    simp [encodeNat]
    omega
  | bit f b =>
    have hf : f < 65536 := by simpa [Instr.wf] using h
    have hb := b.toNat_lt
    have hbit : decide (encodeNat (.bit f b) % 2 = 1) = b := by
      rw [show encodeNat (.bit f b) % 2 = b.toNat by simp only [encodeNat]; omega]
      cases b <;> rfl
    rw [hbit]
    simp [encodeNat]
    omega
  | byte f d =>
    obtain ⟨hf, hd⟩ : f < 65536 ∧ d < 256 := by simpa [Instr.wf] using h
    simp [encodeNat]
    omega
  | flush => simp [encodeNat]
  | openBuf width srate =>
    obtain ⟨hw, hr⟩ : width < 8 ∧ srate < 16777216 := by simpa [Instr.wf] using h
    simp [encodeNat]
    omega

/-- Settles O3: `Decode` field by field, `Encode`'s number, and each undoes the other. -/
theorem decodeAndEncodeAgree : Obligations.DecodeAndEncodeAgree := by
  have hfreq {mk : Nat → Instr} {f : Nat} (hmk : (mk f).wf = freqInRange f) (hf : f < 65536) :=
    encode_toNat (hmk.trans (freqInRange_iff.mpr hf))
  refine ⟨fun w i => ?_, fun _ => hfreq rfl, fun f b hf => ?_, fun f d hf hd => encode_toNat ?_,
    fun _ => hfreq rfl, fun _ => hfreq rfl, rfl, fun width srate hw hr => encode_toNat ?_,
    fun _ => decode_encode, fun _ _ h => ⟨Machine.decode_wf h, encode_of_decode h⟩⟩
  · rw [decode_eq_command_iff, getLsbD_eq_false_iff]
    simp only [extractLsb_eq_iff, extractLsb_toNat_eq_field, getLsbD_eq_decide_field, Nat.reduceLeDiff]
    rfl
  · cases b <;> exact hfreq (mk := (.bit · _)) rfl hf
  · simpa [Instr.wf] using And.intro hf hd
  · simpa [Instr.wf] using And.intro hw hr

/-! ### The rows of the opcode map (R54) -/

/-- A mask that is one field leaves that field of a word where it stands. -/
theorem and_eq_iff_field {m p : Word} {hi lo v : Nat} (hm : m.toNat = (2 ^ (hi + 1 - lo) - 1) * 2 ^ lo)
    (hp : p.toNat = v * 2 ^ lo) (w : Word) : w &&& m = p ↔ field w hi lo = v := by
  have hand : (w &&& m).toNat = field w hi lo * 2 ^ lo := by
    rw [BitVec.toNat_and, hm, field, ← Nat.and_two_pow_sub_one_eq_mod]
    refine Nat.eq_of_testBit_eq fun k => ?_
    by_cases hk : lo ≤ k <;> simp [hk, Nat.testBit_mul_two_pow, Nat.testBit_div_two_pow, Bool.and_comm]
  rw [BitVec.toNat_eq, hand, hp, Nat.mul_left_inj (Nat.two_pow_pos lo).ne']

theorem and_eq_zero_iff_field {m : Word} {hi lo : Nat} (hm : m.toNat = (2 ^ (hi + 1 - lo) - 1) * 2 ^ lo) (w : Word) :
    w &&& m = 0#32 ↔ field w hi lo = 0 :=
  and_eq_iff_field hm (by simp) w

/-- A mask in two parts, of which the pattern stands in the first: the word's bits in the second are 0. -/
theorem and_eq_iff_of_union {m a b p : Word} (hm : m = a ||| b) (hab : a &&& b = 0#32) (hp : p &&& a = p) (w : Word) :
    w &&& m = p ↔ w &&& a = p ∧ w &&& b = 0#32 := by
  have ha : m &&& a = a := by
    rw [hm, BitVec.and_or_distrib_right, BitVec.and_self, BitVec.and_comm b a, hab, BitVec.or_zero]
  have hb : m &&& b = b := by
    rw [hm, BitVec.and_or_distrib_right, BitVec.and_self, hab, BitVec.zero_or]
  constructor
  · rintro rfl
    constructor
    · rw [← hp, BitVec.and_assoc, ha]
    · rw [← hb, ← BitVec.and_assoc, ← hp, BitVec.and_assoc, hab, BitVec.and_zero]
  · rintro ⟨hpattern, hzero⟩
    rw [hm, BitVec.and_or_distrib_left, hpattern, hzero, BitVec.or_zero]

/-- The opcode of a row, and the bits below it that the row fixes at 0. -/
theorem and_eq_iff_opcode {m low p : Word} {op : Nat} (hm : m = 0xF0000000 ||| low) (hlow : 0xF0000000 &&& low = 0#32)
    (hp : p.toNat = op * 2 ^ 28) (hpm : p &&& 0xF0000000 = p) (w : Word) :
    w &&& m = p ↔ field w 31 28 = op ∧ w &&& low = 0#32 := by
  rw [and_eq_iff_of_union hm hlow hpm, and_eq_iff_field (hi := 31) rfl hp]

/-- PULSE, SHDR and LHDR (R54): the reserved bits and `DATA` are 0. -/
theorem and_eq_iff_plain {p : Word} {op : Nat} (hp : p.toNat = op * 2 ^ 28) (hpm : p &&& 0xF0000000 = p) (w : Word) :
    w &&& 0xFF0000FF = p ↔ field w 31 28 = op ∧ field w 27 24 = 0 ∧ field w 7 0 = 0 := by
  rw [and_eq_iff_opcode (m := 0xFF0000FF) (low := 0x0F0000FF) rfl rfl hp hpm,
    and_eq_iff_of_union (m := 0x0F0000FF) (a := 0x0F000000) (b := 0xFF) rfl rfl rfl,
    and_eq_zero_iff_field (m := 0x0F000000) (hi := 27) (lo := 24) rfl,
    and_eq_zero_iff_field (m := 0xFF) (hi := 7) (lo := 0) rfl]

theorem and_eq_iff_bit (w : Word) :
    w &&& 0xFF0000FE = 0x20000000 ↔ field w 31 28 = 2 ∧ field w 27 24 = 0 ∧ field w 7 1 = 0 := by
  rw [and_eq_iff_opcode (m := 0xFF0000FE) (low := 0x0F0000FE) (op := 2) rfl rfl rfl rfl,
    and_eq_iff_of_union (m := 0x0F0000FE) (a := 0x0F000000) (b := 0xFE) rfl rfl rfl,
    and_eq_zero_iff_field (m := 0x0F000000) (hi := 27) (lo := 24) rfl,
    and_eq_zero_iff_field (m := 0xFE) (hi := 7) (lo := 1) rfl]

theorem and_eq_iff_byte (w : Word) : w &&& 0xFF000000 = 0x30000000 ↔ field w 31 28 = 3 ∧ field w 27 24 = 0 := by
  rw [and_eq_iff_opcode (m := 0xFF000000) (low := 0x0F000000) (op := 3) rfl rfl rfl rfl,
    and_eq_zero_iff_field (m := 0x0F000000) (hi := 27) (lo := 24) rfl]

theorem and_eq_iff_flush (w : Word) : w &&& 0xFFFFFFFF = 0x60000000 ↔ field w 31 28 = 6 ∧ field w 27 0 = 0 := by
  rw [and_eq_iff_opcode (m := 0xFFFFFFFF) (low := 0x0FFFFFFF) (op := 6) rfl rfl rfl rfl,
    and_eq_zero_iff_field (m := 0x0FFFFFFF) (hi := 27) (lo := 0) rfl]

theorem and_eq_iff_open (w : Word) : w &&& 0xF8000000 = 0x70000000 ↔ field w 31 28 = 7 ∧ field w 27 27 = 0 := by
  rw [and_eq_iff_opcode (m := 0xF8000000) (low := 0x08000000) (op := 7) rfl rfl rfl rfl,
    and_eq_zero_iff_field (m := 0x08000000) (hi := 27) (lo := 27) rfl]

/-- Every row fixes the opcode bits, so a word the row selects has the row's. -/
theorem pattern_of_selects {r : OpcodeRow} {w : Word} (hr : r ∈ opcodeMap) (h : r.selects w = true) :
    r.pattern = w &&& 0xF0000000 := by
  have hrow : ∀ r ∈ opcodeMap, r.pattern &&& 0xF0000000 = r.pattern ∧ r.mask &&& 0xF0000000 = 0xF0000000 := by decide
  obtain ⟨hpattern, hmask⟩ := hrow r hr
  rw [← hpattern, ← beq_iff_eq.mp h, BitVec.and_assoc, hmask]

/-- Settles O2: a row selects by the fields its mask is made of, which are those `Decode` tests; no two rows have one opcode. -/
theorem opcodeMapSelectsCommands : Obligations.OpcodeMapSelectsCommands := by
  refine ⟨fun w => ⟨?_, ?_, ?_, ?_, ?_, ?_, ?_⟩, fun w r₁ h₁ r₂ h₂ hs₁ hs₂ => ?_⟩
  · rw [and_eq_iff_plain (op := 1) rfl rfl]
    simp [decode_eq_command_iff]
  · rw [and_eq_iff_bit]
    simp [decode_eq_command_iff]
  · rw [and_eq_iff_byte]
    simp [decode_eq_command_iff]
  · rw [and_eq_iff_plain (op := 4) rfl rfl]
    simp [decode_eq_command_iff]
  · rw [and_eq_iff_plain (op := 5) rfl rfl]
    simp [decode_eq_command_iff]
  · rw [and_eq_iff_flush]
    simp [decode_eq_command_iff]
  · rw [and_eq_iff_open]
    simp [decode_eq_command_iff]
  · have hdistinct : ∀ r₁ ∈ opcodeMap, ∀ r₂ ∈ opcodeMap, r₁.pattern = r₂.pattern → r₁ = r₂ := by decide
    exact hdistinct r₁ h₁ r₂ h₂ ((pattern_of_selects h₁ hs₁).trans (pattern_of_selects h₂ hs₂).symm)

/-! ### The illegal words (R56) -/

theorem exists_decode_eq_illegal_iff {w : Word} : (∃ why, decode w = .illegal why) ↔ ¬∃ i, decode w = .command i := by
  cases decode w <;> simp

/-- The words that are commands, by what each format fixes at 0. -/
theorem exists_decode_eq_command_iff {w : Word} : (∃ i, decode w = .command i) ↔
    ((field w 31 28 = 1 ∨ field w 31 28 = 4 ∨ field w 31 28 = 5) ∧ field w 27 24 = 0 ∧ field w 7 0 = 0) ∨
    (field w 31 28 = 2 ∧ field w 27 24 = 0 ∧ field w 7 1 = 0) ∨ (field w 31 28 = 3 ∧ field w 27 24 = 0) ∨
    (field w 31 28 = 6 ∧ field w 27 0 = 0) ∨ (field w 31 28 = 7 ∧ field w 27 27 = 0) := by
  simp only [decode_eq_command_iff, exists_or, exists_and_left, exists_eq, and_true]
  omega

/-- A `CMD` write of an illegal word (R131, R135). -/
theorem step_of_illegal {s : Machine.State} {w : Word} {rest : List Machine.Input} {why : Illegal}
    (hin : s.inbox = Machine.cmdWrite w :: rest) (hdec : decode w = .illegal why) :
    Machine.step s = .next (Machine.raise .eill w (s.withInbox rest)) := by
  rw [Machine.step_of_cmdWrite hin, ← Machine.illegalWord_eq_reference hdec, Machine.illegalWord]

/-- Settles O4: the illegal words are those that are no command, and one is the `EILL` of R131 or discarded (R135). -/
theorem illegalWordsRaiseEill : Obligations.IllegalWordsRaiseEill := by
  refine ⟨fun w => ?_, fun s w rest why hin hdec => ?_⟩
  · have hreserved : field w 27 0 = 0 → field w 27 24 = 0 := by
      rw [field_27_0, field_27_24]
      omega
    have hopcode := field_lt w 31 28
    have hbit := field_lt w 27 27
    rw [exists_decode_eq_illegal_iff, exists_decode_eq_command_iff, getLsbD_eq_decide_field, decide_eq_true_iff]
    simp only [ne_eq, extractLsb_eq_iff, extractLsb_toNat_eq_field, Nat.reduceLeDiff, BitVec.ofNat_eq_ofNat,
      BitVec.toNat_ofNat, Nat.reduceSub, Nat.reduceAdd, Nat.reducePow, Nat.reduceMod]
    omega
  · rw [step_of_illegal hin hdec]
    split_ifs with hc
    · exact congrArg _ (Machine.raise_clear hc)
    · exact congrArg _ (Machine.raise_recorded hc)

end Sys2Proof

/-! A list of emitting commands as the pulses it comes to, and the expansions of `30_encoding.md` R58. -/

namespace Sys2Proof.Machine

/-! ### One emitting command -/

/-- An emitting command that leaves no fault recorded emitted every one of its pulses. -/
theorem exec_of_no_fault {i : Instr} {s t : State} (hi : emits i = true) (hs : s.cause = 0#4) (h : exec i s = .next t)
    (ht : t.cause = 0#4) : s.Ready ∧ freqOk (topFreqOf i) s.srate = true ∧
      s.samplesAfter (pulsesOf i) ≤ Config.maxSamples ∧ t = s.afterPulses (pulsesOf i) := by
  rw [exec_of_emits hi] at h
  cases h
  rcases emitCommand_cases (encode i) (topFreqOf i) (pulsesOf i) s with
    ⟨ho, -, hf, e⟩ | ⟨-, -, -, e⟩ | ⟨-, -, e⟩ | ⟨hc, -⟩
  · rw [e] at ht ⊢
    rcases emitPulses_cases (encode i) (pulsesOf i) s with ⟨hfit, e⟩ | ⟨n, -, -, -, e⟩
    · exact ⟨⟨ho, hs⟩, hf, hfit, e⟩
    · rw [e, raise_clear (s := s.afterPulses _) hs] at ht
      exact absurd ht (Cause.code_ne_zero .eovf)
  · rw [e] at ht
    exact absurd ht (Cause.code_ne_zero .efreq)
  · rw [e] at ht
    exact absurd ht (Cause.code_ne_zero .eseq)
  · exact absurd hs hc

theorem samplesAfter_le_append (s : State) (xs ys : List Nat) : s.samplesAfter xs ≤ s.samplesAfter (xs ++ ys) := by
  simp only [State.samplesAfter, samplesAfter_append]
  exact le_samplesAfter ..

theorem emitPulses_of_fits {s : State} {train : List Nat} (h : s.samplesAfter train ≤ Config.maxSamples) (cw : Word) :
    emitPulses cw train s = s.afterPulses train := by
  rcases emitPulses_cases cw train s with ⟨-, e⟩ | ⟨n, -, -, hgt, -⟩
  · exact e
  · have hle := samplesAfter_le_append s (train.take (n + 1)) (train.drop (n + 1))
    rw [List.take_append_drop] at hle
    omega

/-- On an open session with no fault an emitting command is its check and its pulses (R81, R134). -/
theorem exec_of_ready {i : Instr} {s : State} (hi : emits i = true) (hs : s.Ready) :
    exec i s = .next (if freqOk (topFreqOf i) s.srate then emitPulses (encode i) (pulsesOf i) s
      else s.record Cause.efreq.code (encode i)) := by
  obtain ⟨ho, hc⟩ := hs
  rw [exec_of_emits hi, emitCommand, accept, if_pos hc, if_pos ho, raise_clear hc]

/-- Such a command with a legal frequency, its pulses fitting the counter, emits them all. -/
theorem exec_of_fits {i : Instr} {s : State} (hi : emits i = true) (hs : s.Ready)
    (hf : freqOk (topFreqOf i) s.srate = true) (hfit : s.samplesAfter (pulsesOf i) ≤ Config.maxSamples) :
    exec i s = .next (s.afterPulses (pulsesOf i)) := by
  rw [exec_of_ready hi hs, if_pos hf, emitPulses_of_fits hfit]

theorem exec_of_freq_not_ok {i : Instr} {s : State} (hi : emits i = true) (hs : s.Ready)
    (hf : freqOk (topFreqOf i) s.srate = false) : exec i s = .next (s.record Cause.efreq.code (encode i)) := by
  rw [exec_of_ready hi hs, if_neg (Bool.not_eq_true _ ▸ hf)]

/-- Under a fault an emitting command is discarded (R135). -/
theorem exec_of_fault {i : Instr} {s : State} (hi : emits i = true) (hc : s.cause ≠ 0#4) : exec i s = .next s := by
  rw [exec_of_emits hi, emitCommand, accept, if_neg hc]
  rfl

/-! ### Lists of commands (R59) -/

theorem execAll_cons_of_next {i : Instr} {s t : State} (h : exec i s = .next t) (rest : List Instr) :
    execAll (i :: rest) s = execAll rest t := by
  rw [execAll, h]

theorem execAll_append_of_next {xs : List Instr} {s t : State} (h : execAll xs s = .next t) (ys : List Instr) :
    execAll (xs ++ ys) s = execAll ys t := by
  induction xs generalizing s with
  | nil =>
    cases h
    rfl
  | cons i rest ih =>
    rw [List.cons_append]
    simp only [execAll] at h ⊢
    cases hi : exec i s with
    | next u =>
      rw [hi] at h
      exact ih h
    | fault r => nomatch r
    | refused r =>
      rw [hi] at h
      cases h

/-- Under a fault a list of emitting commands is discarded (R135). -/
theorem execAll_of_fault {cmds : List Instr} {s : State} (hcmds : ∀ i ∈ cmds, emits i = true) (hc : s.cause ≠ 0#4) :
    execAll cmds s = .next s := by
  induction cmds with
  | nil => rfl
  | cons i rest ih =>
    obtain ⟨hi, hrest⟩ := List.forall_mem_cons.mp hcmds
    rw [execAll_cons_of_next (exec_of_fault hi hc), ih hrest]

/-- Emitting commands whose frequencies are legal and whose pulses fit: the pulses of all of them, one after another. -/
theorem execAll_of_fits {cmds : List Instr} {s : State}
    (hcmds : ∀ i ∈ cmds, emits i = true ∧ freqOk (topFreqOf i) s.srate = true) (hs : s.Ready)
    (hfit : s.samplesAfter (cmds.flatMap pulsesOf) ≤ Config.maxSamples) :
    execAll cmds s = .next (s.afterPulses (cmds.flatMap pulsesOf)) := by
  induction cmds generalizing s with
  | nil => simp [execAll]
  | cons i rest ih =>
    obtain ⟨⟨hi, hf⟩, hrest⟩ := List.forall_mem_cons.mp hcmds
    rw [List.flatMap_cons] at hfit ⊢
    have hfirst : s.samplesAfter (pulsesOf i) ≤ Config.maxSamples :=
      (samplesAfter_le_append s ..).trans hfit
    rw [execAll_cons_of_next (exec_of_fits hi hs hf hfirst), ← afterPulses_split hfirst]
    exact ih hrest hs ((samplesAfter_split hfirst _).trans_le hfit)

theorem flatMap_pulsesOf_replicate {i : Instr} {fp : Nat} (h : pulsesOf i = [fp]) (n : Nat) :
    (List.replicate n i).flatMap pulsesOf = List.replicate n fp := by
  rw [List.flatMap_replicate, h, List.flatten_replicate_singleton]

/-! ### The expansions of R58 -/

/-- Commands that use no higher frequency than `i` and come to its pulses: what R58 expands `i` into. -/
structure Expansion (i : Instr) (cmds : List Instr) : Prop where
  emitting : emits i = true
  parts : ∀ j ∈ cmds, emits j = true ∧ ∀ srate, freqOk (topFreqOf i) srate = true → freqOk (topFreqOf j) srate = true
  pulses : cmds.flatMap pulsesOf = pulsesOf i

/-- Where the command leaves no fault, its expansion ends in the same state. -/
theorem Expansion.execAll_eq {i : Instr} {cmds : List Instr} (hx : Expansion i cmds) {s t : State} (hs : s.cause = 0#4)
    (h : exec i s = .next t) (ht : t.cause = 0#4) : execAll cmds s = .next t := by
  obtain ⟨hready, hf, hfit, rfl⟩ := exec_of_no_fault hx.emitting hs h ht
  rw [← hx.pulses] at hfit ⊢
  exact execAll_of_fits (fun j hj => (hx.parts j hj).imp_right (· _ hf)) hready hfit

theorem expansion_bitAsPulses (f : Nat) (b : Bool) : Expansion (.bit f b) (bitAsPulses f b) where
  emitting := rfl
  parts := by cases b <;> simp [bitAsPulses, emits, topFreqOf, bitTopFreq]
  pulses := by cases b <;> rfl

/-- A legal `2F` makes both bit values legal. -/
theorem freqOk_bitTopFreq {f : Nat} {srate : BitVec 24} (h : freqOk (2 * f) srate = true) (b : Bool) :
    freqOk (bitTopFreq f b) srate = true := by
  cases b with
  | true => exact h
  | false =>
    rw [freqOk_iff] at h ⊢
    change 1 ≤ f ∧ 2 * f ≤ _
    omega

theorem expansion_byteAsBits (f d : Nat) : Expansion (.byte f d) (byteAsBits f d) where
  emitting := rfl
  parts := by
    intro j hj
    obtain ⟨b, -, rfl⟩ := List.mem_map.mp hj
    exact ⟨rfl, fun _ h => freqOk_bitTopFreq h b⟩
  pulses := List.flatMap_map ..

theorem expansion_longHeaderAsShort (f : Nat) : Expansion (.lhdr f) (longHeaderAsShort f) where
  emitting := rfl
  parts := by simp [longHeaderAsShort, emits, topFreqOf]
  pulses := rfl

theorem expansion_shortHeaderAsPulses (f : Nat) : Expansion (.shdr f) (shortHeaderAsPulses f) where
  emitting := rfl
  parts := by
    intro j hj
    rw [List.eq_of_mem_replicate hj]
    exact ⟨rfl, fun _ => id⟩
  pulses := flatMap_pulsesOf_replicate rfl _

theorem expansion_shortHeaderAsBits (f : Nat) : Expansion (.shdr f) (shortHeaderAsBits f) where
  emitting := rfl
  parts := by
    intro j hj
    rw [List.eq_of_mem_replicate hj]
    exact ⟨rfl, fun _ => id⟩
  pulses := flatMap_pulsesOf_replicate rfl _

/-! ### An expansion under a fault -/

/-- A list of flags with a set one in it: the unset ones before the first set one, then that one. -/
theorem map_append_true_eq (p : Nat → Bool) (ks : List Nat) (tail : List Bool) :
    ∃ rest, ks.map p ++ true :: tail = List.replicate (ks.takeWhile (fun k => !p k)).length false ++ true :: rest := by
  induction ks with
  | nil => exact ⟨tail, rfl⟩
  | cons k ks ih =>
    cases hk : p k with
    | true => exact ⟨ks.map p ++ true :: tail, by simp [hk]⟩
    | false =>
      obtain ⟨rest, e⟩ := ih
      exact ⟨rest, by simp [hk, e, List.replicate_succ]⟩

/-- The slots of a byte up to its first 1: the start bit and the 0 bits before the first 1 bit or stop bit (R92). -/
theorem byteSlots_eq (d : Nat) : ∃ rest, byteSlots d
    = List.replicate (1 + ((List.range 8).takeWhile (fun k => !d.testBit k)).length) false ++ true :: rest := by
  obtain ⟨rest, e⟩ := map_append_true_eq d.testBit (List.range 8) [true]
  refine ⟨rest, ?_⟩
  rw [Nat.add_comm, List.replicate_succ, List.cons_append, ← e]
  rfl

/-- 0 bits that fit and then a 1 bit, at an `F` whose double is not legal: the 0 bits are emitted, the 1 bit records
`EFREQ`, and the rest is discarded. -/
theorem execAll_bits_of_freq_not_ok {s : State} {f n : Nat} (hs : s.Ready) (hf : freqOk f s.srate = true)
    (h2f : freqOk (2 * f) s.srate = false) (hfit : s.samplesAfter (List.replicate n f) ≤ Config.maxSamples)
    (rest : List Bool) :
    execAll ((List.replicate n false ++ true :: rest).map (.bit f)) s
      = .next ((s.afterPulses (List.replicate n f)).record Cause.efreq.code (encode (.bit f true))) := by
  have htrain : (List.replicate n (Instr.bit f false)).flatMap pulsesOf = List.replicate n f :=
    flatMap_pulsesOf_replicate rfl n
  have hzeros : execAll (List.replicate n (.bit f false)) s = .next (s.afterPulses (List.replicate n f)) := by
    rw [← htrain] at hfit ⊢
    refine execAll_of_fits (fun i hi => ?_) hs hfit
    rw [List.eq_of_mem_replicate hi]
    exact ⟨rfl, hf⟩
  have hone := exec_of_freq_not_ok (i := .bit f true) (s := s.afterPulses (List.replicate n f)) rfl hs h2f
  rw [List.map_append, List.map_replicate, execAll_append_of_next hzeros, List.map_cons, execAll_cons_of_next hone]
  refine execAll_of_fault (fun i hi => ?_) (Cause.code_ne_zero .efreq)
  obtain ⟨b, -, rfl⟩ := List.mem_map.mp hi
  rfl

/-- Settles O37: each expansion is the command's own pulses, and under a fault each command answers for itself. -/
theorem expansionsDoTheSame : Obligations.ExpansionsDoTheSame := by
  refine ⟨fun _ _ f _ => (expansion_bitAsPulses f false).execAll_eq,
    fun _ _ f _ => (expansion_bitAsPulses f true).execAll_eq,
    fun _ _ f d _ _ => (expansion_byteAsBits f d).execAll_eq, fun _ _ f _ => (expansion_longHeaderAsShort f).execAll_eq,
    fun _ _ f _ hs h ht => ⟨(expansion_shortHeaderAsPulses f).execAll_eq hs h ht,
      (expansion_shortHeaderAsBits f).execAll_eq hs h ht⟩, ?_⟩
  intro s f d _ _ hs hpos hf hfail zeros hfit
  have hok : freqOk f s.srate = true := freqOk_iff.mpr ⟨hpos, hf⟩
  have hbad : freqOk (2 * f) s.srate = false := by
    rw [Bool.eq_false_iff, ne_eq, freqOk_iff]
    omega
  obtain ⟨rest, hslots⟩ := byteSlots_eq d
  rw [byteAsBits, hslots]
  exact ⟨exec_of_freq_not_ok (i := .byte f d) rfl hs hbad, execAll_bits_of_freq_not_ok hs hok hbad hfit rest⟩

end Sys2Proof.Machine

/-! The arithmetic of the tone clock, the grids of pulse boundaries and what stays on them, the frequency check, and the bytes
of a sample. From these the statements of `40_tone_clock_pulse.md`. -/

namespace Sys2Proof.Machine

/-! ### The laws of `rnd` (R70) -/

/-- `rnd` sees only the quotient of its operands: a common factor cancels. -/
theorem rnd_mul_mul_left {c : Nat} (hc : 0 < c) (a b : Nat) : rnd (c * a) (c * b) = rnd a b := by
  simp only [rnd, Nat.mul_div_mul_left _ _ hc, Nat.mul_mod_mul_left, Nat.mul_left_comm 2 c, gt_iff_lt,
    Nat.mul_lt_mul_left hc]

theorem rnd_mono {a a' b : Nat} (hb : 0 < b) (h : a ≤ a') : rnd a b ≤ rnd a' b := by
  rcases h.eq_or_lt with rfl | hlt
  · exact le_rfl
  · have hup := rnd_upper a (b := b)
    have hdn := rnd_lower a' hb
    have hstep : 2 * b * (rnd a' b + 1) = 2 * b * rnd a' b + 2 * b := by ring
    have hnear : rnd a b < rnd a' b + 1 := Nat.lt_of_mul_lt_mul_left (a := 2 * b) (by omega)
    omega

/-- Settles O19: the definition's own branches, and the laws above. -/
theorem roundedQuotientIsNearest : Obligations.RoundedQuotientIsNearest := by
  refine ⟨fun a b _ => ?_, fun _ _ _ hb h => rnd_mono hb h, fun k _ hb => rnd_mul_self hb k,
    fun a b _ _ hc => rnd_mul_mul_left hc a b, fun a _ hb => ⟨rnd_lower a hb, rnd_upper a⟩⟩
  rcases rnd_cases a b with ⟨h, e⟩ | ⟨h, e⟩ | ⟨h, hq, e⟩ | ⟨h, hq, e⟩ <;> rw [e] <;> omega

/-! ### The boundaries of a pulse (R73, R75, R82) -/

/-- The ideal start of pulse `p` is `p*S/Fp`. -/
theorem pulseStart_eq (S fp p : Nat) : pulseStart S fp p = rnd (p * S) fp := by
  rw [pulseStart, Nat.mul_assoc, rnd_mul_mul_left two_pos]

theorem pulseEnd_eq_pulseStart_succ (S fp p : Nat) : pulseEnd S fp p = pulseStart S fp (p + 1) := rfl

theorem pulseEnd_eq (S fp p : Nat) : pulseEnd S fp p = rnd ((p + 1) * S) fp := pulseStart_eq S fp (p + 1)

theorem pulseStart_le_pulseMid {fp : Nat} (h : 1 ≤ fp) (S p : Nat) : pulseStart S fp p ≤ pulseMid S fp p :=
  rnd_mono (by omega) (Nat.mul_le_mul_right S (Nat.le_succ _))

theorem pulseMid_le_pulseEnd {fp : Nat} (h : 1 ≤ fp) (S p : Nat) : pulseMid S fp p ≤ pulseEnd S fp p :=
  rnd_mono (by omega) (Nat.mul_le_mul_right S (Nat.le_succ _))

/-- Settles O20: the boundaries round multiples of `S` in their order. -/
theorem pulseBoundariesTile : Obligations.PulseBoundariesTile := fun S fp p h =>
  ⟨rfl, rfl, rfl, pulseStart_le_pulseMid h S p, pulseMid_le_pulseEnd h S p, pulseEnd_eq_pulseStart_succ S fp p⟩

/-- The half bound on the grid of half pulses, with its factor 2 cancelled. -/
theorem rnd_two_mul_bounds {fp : Nat} (h : 1 ≤ fp) (a : Nat) :
    a ≤ 2 * fp * rnd a (2 * fp) + fp ∧ 2 * fp * rnd a (2 * fp) ≤ a + fp := by
  have hup := rnd_upper a (b := 2 * fp)
  have hdn := rnd_lower a (b := 2 * fp) (by omega)
  rw [Nat.mul_assoc 2 (2 * fp)] at hup hdn
  omega

/-- Settles O21: the half bound of `rnd` at each of the three boundaries. -/
theorem boundariesWithinHalfSample : Obligations.BoundariesWithinHalfSample := by
  intro S fp p h
  have hstart : 2 * (p * S) = 2 * p * S := by ring
  have hend : 2 * ((p + 1) * S) = (2 * p + 2) * S := by ring
  rw [hstart, hend]
  exact ⟨rnd_two_mul_bounds h _, rnd_two_mul_bounds h _, rnd_two_mul_bounds h _⟩

/-- Settles O22: the three boundaries are multiples of `S` at least one whole `2*Fp` apart. -/
theorem legalPulseHasBothHalves : Obligations.LegalPulseHasBothHalves := by
  intro S fp p hpos hle
  have hlow : pulseStart S fp p < pulseMid S fp p := rnd_mul_lt_succ (by omega) hle (2 * p)
  have hhigh : pulseMid S fp p < pulseEnd S fp p := rnd_mul_lt_succ (by omega) hle (2 * p + 1)
  omega

/-! ### The length of a pulse (R83) -/

/-- The ceiling of a quotient that is no integer. -/
theorem add_pred_div_of_mod_pos {S c : Nat} (hc : 0 < c) (h : 0 < S % c) : (S + c - 1) / c = S / c + 1 := by
  have hS := Nat.div_add_mod S c
  have hrc := Nat.mod_lt S hc
  have hpred : S + c - 1 + 1 = S + c := Nat.sub_add_cancel (by omega)
  exact Nat.div_eq_of_lt_le (by linarith) (by linarith)

theorem add_pred_div_le (S : Nat) {c : Nat} (hc : 0 < c) : (S + c - 1) / c ≤ S := by
  have hS : S ≤ S * c := Nat.le_mul_of_pos_right S hc
  have hlt : (S + c - 1) / c < S + 1 := (Nat.div_lt_iff_lt_mul hc).mpr (by rw [Nat.succ_mul]; omega)
  omega

/-- Where `c` divides `S` every multiple of `S` is an exact quotient. -/
theorem rnd_succ_sub_of_dvd {S c : Nat} (hc : 0 < c) (h : c ∣ S) (n : Nat) :
    rnd ((n + 1) * S) c - rnd (n * S) c = S / c := by
  obtain ⟨q, rfl⟩ := h
  rw [Nat.mul_div_cancel_left q hc, Nat.mul_comm c q, ← Nat.mul_assoc, ← Nat.mul_assoc, rnd_mul_self hc, rnd_mul_self hc,
    Nat.succ_mul, Nat.add_sub_cancel_left]

/-- Neighbouring multiples of `S` round to integers `floor(S/c)` or `ceil(S/c)` apart. The two half bounds alone leave
`S/c - 1` and `S/c + 1` possible, which are integers only where `c` divides `S`, and there no rounding happens. -/
theorem rnd_succ_sub_eq {S c : Nat} (hc : 0 < c) (n : Nat) :
    rnd ((n + 1) * S) c - rnd (n * S) c = S / c ∨ rnd ((n + 1) * S) c - rnd (n * S) c = (S + c - 1) / c := by
  rcases Nat.eq_zero_or_pos (S % c) with hr | hr
  · exact .inl (rnd_succ_sub_of_dvd hc (Nat.dvd_of_mod_eq_zero hr) n)
  · rw [add_pred_div_of_mod_pos hc hr]
    have hS := Nat.div_add_mod S c
    have hrc := Nat.mod_lt S hc
    have hup := rnd_upper ((n + 1) * S) (b := c)
    have hdn := rnd_lower ((n + 1) * S) hc
    have hup' := rnd_upper (n * S) (b := c)
    have hdn' := rnd_lower (n * S) hc
    generalize S / c = q at *
    generalize rnd ((n + 1) * S) c = y at *
    generalize rnd (n * S) c = x at *
    have hfloor : x + q < y + 1 := Nat.lt_of_mul_lt_mul_left (a := 2 * c) (by linarith)
    have hceil : y < x + q + 2 := Nat.lt_of_mul_lt_mul_left (a := 2 * c) (by linarith)
    omega

/-- Settles O23: start, mid and end are neighbouring multiples of `S` on the grids of `Fp` and `2*Fp`. -/
theorem pulseLengthIsFloorOrCeil : Obligations.PulseLengthIsFloorOrCeil := by
  intro S fp p h
  have h2 : 0 < 2 * fp := by omega
  refine ⟨?_, fun hdvd => ?_, rnd_succ_sub_eq h2 (2 * p), rnd_succ_sub_eq h2 (2 * p + 1)⟩ <;>
    rw [pulseEnd_eq, pulseStart_eq]
  · exact rnd_succ_sub_eq h p
  · exact rnd_succ_sub_of_dvd h (Nat.dvd_of_mod_eq_zero hdvd) p

/-! ### The sizes of the intermediates (R80) -/

/-- The two halves of a pulse together are `end - start` (R78). -/
theorem pulseSamples_eq {fp : Nat} (h : 1 ≤ fp) (S E : Nat) :
    pulseSamples S fp E = pulseEnd S fp (pulseIndex S fp E) - pulseStart S fp (pulseIndex S fp E) := by
  have hlow := pulseStart_le_pulseMid h S (pulseIndex S fp E)
  have hhigh := pulseMid_le_pulseEnd h S (pulseIndex S fp E)
  simp only [pulseSamples, lowSamples, highSamples]
  omega

/-- A pulse is no longer than `ceil(S/Fp)`. -/
theorem pulseSamples_le {fp : Nat} (h : 1 ≤ fp) (S E : Nat) : pulseSamples S fp E ≤ (S + fp - 1) / fp := by
  have hle : S / fp ≤ (S + fp - 1) / fp := Nat.div_le_div_right (by omega)
  rw [pulseSamples_eq h, pulseEnd_eq, pulseStart_eq]
  rcases rnd_succ_sub_eq (S := S) h (pulseIndex S fp E) with e | e <;> omega

theorem two_mul_pulseIndex_le {S fp : Nat} (hpos : 1 ≤ fp) (h : 2 * fp ≤ S) (E : Nat) : 2 * pulseIndex S fp E ≤ E + 1 := by
  have hup : 2 * S * pulseIndex S fp E ≤ 2 * (E * fp) + S := rnd_upper (E * fp)
  have hE : E * (2 * fp) ≤ E * S := Nat.mul_le_mul_left E h
  have hS : 0 < S := by omega
  exact Nat.le_of_mul_le_mul_left (c := S) (by linarith) hS

/-- Every boundary of the pulse picked at `EMITTED = E` is within `2*S/Fp` of `E` (R75, R86). -/
theorem boundary_near_emitted {S fp E n : Nat} (hpos : 1 ≤ fp) (h : 2 * fp ≤ S) (hlo : 2 * pulseIndex S fp E ≤ n)
    (hhi : n ≤ 2 * pulseIndex S fp E + 2) :
    rnd (n * S) (2 * fp) * fp ≤ E * fp + 2 * S ∧ E * fp ≤ rnd (n * S) (2 * fp) * fp + 2 * S := by
  have hS : 0 < S := by omega
  have hup : 2 * S * pulseIndex S fp E ≤ 2 * (E * fp) + S := rnd_upper (E * fp)
  have hdn : 2 * (E * fp) ≤ 2 * S * pulseIndex S fp E + S := rnd_lower (E * fp) hS
  obtain ⟨hx, hx'⟩ := rnd_two_mul_bounds hpos (n * S)
  have hn := Nat.mul_le_mul_right S hlo
  have hn' := Nat.mul_le_mul_right S hhi
  constructor <;> linarith

/-- Settles O24: the bound on the index bounds its products, and the boundaries stay near `EMITTED`. -/
theorem intermediatesFit : Obligations.IntermediatesFit := by
  intro S fp E hS hfp hE hpos hle
  have hindex := two_mul_pulseIndex_le hpos hle E
  have hlen := pulseSamples_le hpos S E
  have hnear : ∀ n, 2 * pulseIndex S fp E ≤ n → n ≤ 2 * pulseIndex S fp E + 2 →
      rnd (n * S) (2 * fp) < 2 ^ 34 ∧ rnd (n * S) (2 * fp) * fp ≤ E * fp + 2 * S ∧
        E * fp ≤ rnd (n * S) (2 * fp) * fp + 2 * S := by
    intro n hlo hhi
    obtain ⟨hup, hdn⟩ := boundary_near_emitted hpos hle hlo hhi
    have hS' : 2 * S ≤ 2 * S * fp := Nat.le_mul_of_pos_right _ hpos
    have hx : rnd (n * S) (2 * fp) ≤ E + 2 * S := Nat.le_of_mul_le_mul_right (c := fp) (by linarith) hpos
    exact ⟨by omega, hup, hdn⟩
  have hproduct : E * fp < 2 ^ 32 * 2 ^ 17 := Nat.mul_lt_mul'' (by omega) hfp
  have hnumerator : (2 * pulseIndex S fp E + 2) * S < (2 ^ 32 + 3) * 2 ^ 24 := Nat.mul_lt_mul'' (by omega) hS
  have hceil := add_pred_div_le S hpos
  refine ⟨by omega, hindex, by omega, by omega, by omega, ?_, hlen, by omega⟩
  rintro x (rfl | rfl | rfl)
  · exact hnear _ le_rfl (by omega)
  · exact hnear _ (by omega) (by omega)
  · exact hnear _ (by omega) le_rfl

/-! ### On a grid (R9, R84) -/

/-- On the grid the index is recovered: `EMITTED` is within half a sample of `k*S/Fp`, less than half a pulse. -/
theorem pulseIndex_rnd {S fp : Nat} (hpos : 1 ≤ fp) (h : 2 * fp ≤ S) (k : Nat) : pulseIndex S fp (rnd (k * S) fp) = k := by
  have hup := rnd_upper (k * S) (b := fp)
  have hdn := rnd_lower (k * S) hpos
  refine rnd_eq_of_near (by omega) ?_ ?_ <;> linarith

/-- One pulse on the grid ends at the next grid point. -/
theorem add_pulseSamples_rnd {S fp : Nat} (hpos : 1 ≤ fp) (h : 2 * fp ≤ S) (k : Nat) :
    rnd (k * S) fp + pulseSamples S fp (rnd (k * S) fp) = rnd ((k + 1) * S) fp := by
  rw [pulseSamples_eq hpos, pulseIndex_rnd hpos h, pulseEnd_eq, pulseStart_eq]
  exact Nat.add_sub_cancel' (rnd_mono hpos (Nat.mul_le_mul_right S k.le_succ))

/-- `n` pulses at one frequency move `n` indices along its grid. -/
theorem samplesAfter_replicate_rnd {S fp : Nat} (hpos : 1 ≤ fp) (h : 2 * fp ≤ S) (n k : Nat) :
    samplesAfter S (rnd (k * S) fp) (List.replicate n fp) = rnd ((k + n) * S) fp := by
  induction n generalizing k with
  | zero => rfl
  | succ n ih => rw [List.replicate_succ, samplesAfter, add_pulseSamples_rnd hpos h, ih, Nat.add_right_comm, Nat.add_assoc]

/-- A pulse of no samples can be repeated for ever: what goes wrong above the Nyquist limit (R81, R84). -/
theorem samplesAfter_replicate_of_no_samples {S fp E : Nat} (h : pulseSamples S fp E = 0) (n : Nat) :
    samplesAfter S E (List.replicate n fp) = E := by
  induction n with
  | zero => rfl
  | succ n ih => rw [List.replicate_succ, samplesAfter, h, Nat.add_zero, ih]

/-- A list of pulses whose sample count is a grid point that fits the counter ends on the grid. -/
theorem onGrid_afterPulses {s : State} {train : List Nat} {fp k : Nat}
    (h : s.samplesAfter train = rnd (k * s.srate.toNat) fp) (hroom : rnd (k * s.srate.toNat) fp ≤ Config.maxSamples) :
    (s.afterPulses train).OnGrid fp k :=
  (afterPulses_emitted (h.trans_le hroom)).trans h

theorem State.OnGrid.samplesAfter_replicate {s : State} {fp k : Nat} (h : s.OnGrid fp k) (hpos : 1 ≤ fp)
    (hle : 2 * fp ≤ s.srate.toNat) (n : Nat) :
    s.samplesAfter (List.replicate n fp) = rnd ((k + n) * s.srate.toNat) fp := by
  rw [State.samplesAfter, h, samplesAfter_replicate_rnd hpos hle]

theorem State.onGrid_zero {s : State} (h : s.emitted = 0) (fp : Nat) : s.OnGrid fp 0 := by
  simp [State.OnGrid, h]

/-- Pulses at legal frequencies that fit `EMITTED` are few enough for `PULSES` (R12). -/
theorem two_mul_length_le_of_fits {s : State} {train : List Nat} (h : ∀ fp ∈ train, freqOk fp s.srate = true)
    (hfit : s.samplesAfter train ≤ Config.maxSamples) : 2 * train.length ≤ 2 ^ 32 - 1 :=
  (Nat.le_add_left ..).trans ((add_two_mul_length_le_samplesAfter h s.emitted.toNat).trans hfit)

/-- `n` PULSE commands in a session are a train of `n` pulses. -/
theorem execAll_replicate_pulse {s : State} {fp : Nat} (hs : s.Ready) (hf : freqOk fp s.srate = true) (n : Nat)
    (hfit : s.samplesAfter (List.replicate n fp) ≤ Config.maxSamples) :
    execAll (List.replicate n (.pulse fp)) s = .next (s.afterPulses (List.replicate n fp)) := by
  have htrain : (List.replicate n (Instr.pulse fp)).flatMap pulsesOf = List.replicate n fp :=
    flatMap_pulsesOf_replicate rfl n
  rw [← htrain] at hfit ⊢
  refine execAll_of_fits (fun i hi => ?_) hs hfit
  rw [List.eq_of_mem_replicate hi]
  exact ⟨rfl, hf⟩

/-- Settles O33: a pulse moves one index along the grid, so `n` pulses move `n` and fit `PULSES`. -/
theorem pulseTrainNeverDrifts : Obligations.PulseTrainNeverDrifts := by
  refine ⟨fun s fp k hs hpos hle hgrid hroom => ?_, fun s fp n hs hE hP hpos hle hroom => ?_, ?_, by decide⟩
  · have htrain := hgrid.samplesAfter_replicate hpos hle 1
    refine ⟨?_, ?_, s.afterPulses [fp], ?_, onGrid_afterPulses htrain hroom⟩
    · rw [hgrid, pulseIndex_rnd hpos hle]
    · rw [hgrid, pulseStart_eq]
    · exact exec_of_fits (i := .pulse fp) rfl hs (freqOk_iff.mpr ⟨hpos, hle⟩) (htrain.trans_le hroom)
  · have hf : freqOk fp s.srate = true := freqOk_iff.mpr ⟨hpos, hle⟩
    have htrain := (State.onGrid_zero hE fp).samplesAfter_replicate hpos hle n
    rw [Nat.zero_add] at htrain
    have hgrid : (s.afterPulses (List.replicate n fp)).OnGrid fp n := onGrid_afterPulses htrain hroom
    have hcount : (s.afterPulses (List.replicate n fp)).pulses.toNat = n := by
      have hlen := two_mul_length_le_of_fits (fun x hx => List.eq_of_mem_replicate hx ▸ hf) (htrain.trans_le hroom)
      have hzero : s.pulses.toNat = 0 := congrArg BitVec.toNat hP
      rw [afterPulses_pulses (by omega), hzero, List.length_replicate, Nat.zero_add]
    refine ⟨_, execAll_replicate_pulse hs hf n (htrain.trans_le hroom), hgrid, hcount, ?_⟩
    rw [hgrid, hcount]
    exact pulseIndex_rnd hpos hle n
  · exact samplesAfter_replicate_of_no_samples (by decide) 100

/-! ### Bit slots on the grid (R85) -/

/-- The grid of `2*F` contains the grid of `F`. -/
theorem rnd_two_mul (S f k : Nat) : rnd (2 * k * S) (2 * f) = rnd (k * S) f := pulseStart_eq S f k

theorem State.OnGrid.double {s : State} {f k : Nat} (h : s.OnGrid f k) : s.OnGrid (2 * f) (2 * k) :=
  h.trans (rnd_two_mul ..).symm

/-- A bit slot is one period of `F`, whatever the bit: one pulse at `F`, or two at `2*F`. -/
theorem samplesAfter_slotPulses {S f : Nat} (hpos : 1 ≤ f) (h : 4 * f ≤ S) (b : Bool) (k : Nat) :
    samplesAfter S (rnd (k * S) f) (slotPulses f b) = rnd ((k + 1) * S) f := by
  cases b with
  | false => exact samplesAfter_replicate_rnd hpos (by omega) 1 k
  | true =>
    rw [← rnd_two_mul S f k, ← rnd_two_mul S f (k + 1)]
    exact samplesAfter_replicate_rnd (by omega) (by omega) 2 (2 * k)

/-- `m` bit slots move `m` indices along the grid of `F`. -/
theorem samplesAfter_slots {S f : Nat} (hpos : 1 ≤ f) (h : 4 * f ≤ S) (slots : List Bool) (k : Nat) :
    samplesAfter S (rnd (k * S) f) (slots.flatMap (slotPulses f)) = rnd ((k + slots.length) * S) f := by
  induction slots generalizing k with
  | nil => rfl
  | cons b rest ih =>
    rw [List.flatMap_cons, samplesAfter_append, samplesAfter_slotPulses hpos h, ih, List.length_cons, Nat.add_right_comm,
      Nat.add_assoc]

theorem State.OnGrid.samplesAfter_slots {s : State} {f k : Nat} (h : s.OnGrid f k) (hpos : 1 ≤ f)
    (hle : 4 * f ≤ s.srate.toNat) (slots : List Bool) :
    s.samplesAfter (slots.flatMap (slotPulses f)) = rnd ((k + slots.length) * s.srate.toNat) f := by
  rw [State.samplesAfter, h, Machine.samplesAfter_slots hpos hle]

/-- An even header is a run of 1 slots. -/
theorem replicate_eq_slots (m f : Nat) :
    List.replicate (m * 2) (2 * f) = (List.replicate m true).flatMap (slotPulses f) := by
  rw [List.flatMap_replicate]
  exact List.flatten_replicate_replicate.symm

/-- A long header is one run of pulses at `2*F` (R102). -/
theorem longHeaderPulses_eq_replicate (f : Nat) : longHeaderPulses f = List.replicate (4 * hdrCount f) (2 * f) :=
  List.flatten_replicate_replicate

/-- The commands that keep the grid come to whole bit slots, as many as `slotCount` says. -/
theorem KeepsGrid.exists_slots {f : Nat} {i : Instr} (h : KeepsGrid f i) :
    ∃ slots : List Bool, slots.length = slotCount i ∧ pulsesOf i = slots.flatMap (slotPulses f) := by
  rcases h with ⟨b, rfl⟩ | ⟨d, rfl⟩ | ⟨rfl, heven⟩ | rfl
  · exact ⟨[b], rfl, (List.flatMap_singleton ..).symm⟩
  · exact ⟨byteSlots d, rfl, rfl⟩
  · refine ⟨List.replicate (hdrCount f / 2) true, List.length_replicate, ?_⟩
    rw [← replicate_eq_slots, Nat.div_mul_cancel (Nat.dvd_of_mod_eq_zero heven)]
    rfl
  · refine ⟨List.replicate (2 * hdrCount f) true, List.length_replicate, ?_⟩
    rw [← replicate_eq_slots, Nat.mul_right_comm]
    exact longHeaderPulses_eq_replicate f

/-- A list of such commands comes to the slots of all of them. -/
theorem exists_slots_of_keepsGrid {f : Nat} {cmds : List Instr} (h : ∀ i ∈ cmds, KeepsGrid f i) :
    ∃ slots : List Bool, slots.length = (cmds.map slotCount).sum ∧
      cmds.flatMap pulsesOf = slots.flatMap (slotPulses f) := by
  induction cmds with
  | nil => exact ⟨[], rfl, rfl⟩
  | cons i rest ih =>
    obtain ⟨hi, hrest⟩ := List.forall_mem_cons.mp h
    obtain ⟨first, hlen, hpulses⟩ := hi.exists_slots
    obtain ⟨others, hlen', hpulses'⟩ := ih hrest
    exact ⟨first ++ others, by simp [hlen, hlen'], by simp [hpulses, hpulses']⟩

theorem KeepsGrid.emits_and_freqOk {f : Nat} {i : Instr} (h : KeepsGrid f i) {srate : BitVec 24}
    (hf : freqOk (2 * f) srate = true) : emits i = true ∧ freqOk (topFreqOf i) srate = true := by
  rcases h with ⟨b, rfl⟩ | ⟨d, rfl⟩ | ⟨rfl, -⟩ | rfl
  · exact ⟨rfl, freqOk_bitTopFreq hf b⟩
  all_goals exact ⟨rfl, hf⟩

/-- Settles O34: everything comes to bit slots, each of them one index of the grid of `F`. -/
theorem phaseIsContinuous : Obligations.PhaseIsContinuous := by
  refine ⟨fun S f k _ => rnd_two_mul S f k, fun s f k hs hpos hle hgrid hroom => ?_,
    fun f k cmds s hs hpos hle hgrid hcmds hroom => ?_⟩
  · have hf : freqOk f s.srate = true := freqOk_iff.mpr ⟨hpos, by omega⟩
    have h2f : freqOk (2 * f) s.srate = true := freqOk_iff.mpr ⟨by omega, by omega⟩
    have hone : s.samplesAfter [f] = _ := hgrid.samplesAfter_slots hpos hle [false]
    have htwo : s.samplesAfter [2 * f, 2 * f] = _ := hgrid.samplesAfter_slots hpos hle [true]
    have hone' := onGrid_afterPulses hone hroom
    have htwo' := onGrid_afterPulses htwo hroom
    exact ⟨hgrid.double,
      ⟨_, exec_of_fits (i := .pulse f) rfl hs hf (hone.trans_le hroom), hone', hone'.double⟩,
      ⟨_, execAll_replicate_pulse hs h2f 2 (htwo.trans_le hroom), htwo', htwo'.double⟩⟩
  · obtain ⟨slots, hlen, hpulses⟩ := exists_slots_of_keepsGrid hcmds
    have h2f : freqOk (2 * f) s.srate = true := freqOk_iff.mpr ⟨by omega, by omega⟩
    have htrain := hgrid.samplesAfter_slots hpos hle slots
    rw [hlen, ← hpulses] at htrain
    exact ⟨_, execAll_of_fits (fun i hi => (hcmds i hi).emits_and_freqOk h2f) hs (htrain.trans_le hroom), hs,
      onGrid_afterPulses htrain hroom⟩

/-! ### The frequency check (R81) -/

theorem freqOk_eq_false_iff {fx : Nat} {srate : BitVec 24} :
    freqOk fx srate = false ↔ fx = 0 ∨ 2 * fx > srate.toNat := by
  rw [Bool.eq_false_iff, ne_eq, freqOk_iff]
  omega

/-- Pulses record no fault but `EOVF` (R78). -/
theorem emitPulses_cause_ne_efreq {s : State} (hs : s.cause = 0#4) (cw : Word) (train : List Nat) :
    (emitPulses cw train s).cause ≠ Cause.efreq.code := by
  rcases emitPulses_cases cw train s with ⟨-, e⟩ | ⟨n, -, -, -, e⟩ <;> rw [e]
  · exact hs.trans_ne (Cause.code_ne_zero .efreq).symm
  · rw [raise_clear (s := s.afterPulses _) hs]
    exact (by decide : Cause.eovf.code ≠ Cause.efreq.code)

/-- Settles O17: with the session open and no fault the check alone decides between the pulses and `EFREQ`. -/
theorem frequencyCheckDecidesEfreq : Obligations.FrequencyCheckDecidesEfreq := by
  refine ⟨fun s i t hs hi h => ?_, fun f b d => ⟨rfl, rfl, rfl, rfl, rfl, rfl, rfl, rfl, rfl, rfl, rfl⟩,
    fun fx r => freqOk_iff, fun f r h => freqOk_bitTopFreq h false, fun i r _ h fp hfp => freqOk_of_mem_pulsesOf h hfp⟩
  rw [← freqOk_eq_false_iff]
  cases hf : freqOk (topFreqOf i) s.srate with
  | false =>
    cases (exec_of_freq_not_ok hi hs hf).symm.trans h
    exact ⟨iff_of_true rfl rfl, fun _ => rfl⟩
  | true =>
    rw [exec_of_ready hi hs, if_pos hf] at h
    cases h
    have hne : (emitPulses (encode i) (pulsesOf i) s).cause ≠ 4 := emitPulses_cause_ne_efreq hs.2 _ _
    exact ⟨iff_of_false hne nofun, fun hc => absurd hc hne⟩

/-! ### The bytes of a sample (R76, R77) -/

theorem sampleBytes_one (v : BitVec 8) : sampleBytes 1 v.toNat = [v] := by
  simp [sampleBytes]

theorem sampleBytes_two (v : BitVec 16) : sampleBytes 2 v.toInt = [v.extractLsb' 0 8, v.extractLsb' 8 8] := by
  simp [sampleBytes]

/-- Where a sample of the level is one byte, a run is that byte repeated. -/
theorem sampleRun_of_one_byte {w : BitVec 3} {l : Level} {b : Byte} (h : sampleBytes w (l.value w) = [b]) (n : Nat) :
    sampleRun w l n = List.replicate n (.byte b) := by
  rw [sampleRun, h, List.flatten_replicate_singleton, List.map_replicate]

/-- Where it is two bytes, a run is the pair repeated. -/
theorem sampleRun_of_two_bytes {w : BitVec 3} {l : Level} {b b' : Byte} (h : sampleBytes w (l.value w) = [b, b']) (n : Nat) :
    sampleRun w l n = (List.replicate n [.byte b, .byte b']).flatten := by
  rw [sampleRun, h, List.map_flatten, List.map_replicate]
  rfl

/-- Settles O56: the bytes of each level in each width, and the runs they make. -/
theorem sampleBytesOfTheLevels : Obligations.SampleBytesOfTheLevels := by
  have hlo1 : sampleBytes 1 (Level.lo.value 1) = [0x00] := by decide
  have hhi1 : sampleBytes 1 (Level.hi.value 1) = [0xFF] := by decide
  have hlo2 : sampleBytes 2 (Level.lo.value 2) = [0x00, 0x80] := by decide
  have hhi2 : sampleBytes 2 (Level.hi.value 2) = [0xFF, 0x7F] := by decide
  exact ⟨hlo1, hhi1, hlo2, hhi2, rfl, rfl, rfl, rfl, sampleBytes_one, sampleBytes_two, fun _ _ _ => rfl, fun n =>
    ⟨sampleRun_of_one_byte hlo1 n, sampleRun_of_one_byte hhi1 n, sampleRun_of_two_bytes hlo2 n,
      sampleRun_of_two_bytes hhi2 n⟩⟩

end Sys2Proof.Machine

/-! The time a bit and a byte frame take, on the grid of `F` and off it. From these the statements of `41_bit_byte.md`. -/

namespace Sys2Proof.Machine

/-! ### The length of a pulse at any `EMITTED` (R83) -/

/-- The ceiling of a quotient is at most its floor and one. -/
theorem add_pred_div_le_div_succ (S : Nat) {c : Nat} (hc : 0 < c) : (S + c - 1) / c ≤ S / c + 1 :=
  (Nat.div_le_div_right (Nat.sub_le ..)).trans_eq (Nat.add_div_right S hc)

theorem pulseSamples_floor_or_ceil {fp : Nat} (h : 1 ≤ fp) (S E : Nat) :
    pulseSamples S fp E = S / fp ∨ pulseSamples S fp E = (S + fp - 1) / fp := by
  rw [pulseSamples_eq h]
  exact (pulseLengthIsFloorOrCeil S fp _ h).1

theorem pulseSamples_of_dvd {S fp : Nat} (h : 1 ≤ fp) (hdvd : fp ∣ S) (E : Nat) : pulseSamples S fp E = S / fp := by
  rw [pulseSamples_eq h, pulseEnd_eq, pulseStart_eq]
  exact rnd_succ_sub_of_dvd h hdvd _

/-- A pulse is `floor(S/Fp)` samples or one more. -/
theorem pulseSamples_bounds {fp : Nat} (h : 1 ≤ fp) (S E : Nat) :
    S / fp ≤ pulseSamples S fp E ∧ pulseSamples S fp E ≤ S / fp + 1 := by
  refine ⟨?_, (pulseSamples_le h S E).trans (add_pred_div_le_div_succ S h)⟩
  rcases pulseSamples_floor_or_ceil h S E with e | e <;> rw [e]
  exact Nat.div_le_div_right (by omega)

theorem samplesAfter_singleton_sub (S fp E : Nat) : samplesAfter S E [fp] - E = pulseSamples S fp E :=
  Nat.add_sub_cancel_left ..

theorem samplesAfter_pair_sub (S fp fp' E : Nat) : samplesAfter S E [fp, fp'] - E
    = pulseSamples S fp E + pulseSamples S fp' (E + pulseSamples S fp E) := by
  rw [samplesAfter, samplesAfter, samplesAfter, Nat.add_assoc, Nat.add_sub_cancel_left]

/-! ### Commands that keep the grid (R85) -/

theorem execAll_cons_eq_next_iff {i : Instr} {rest : List Instr} {s t : State} :
    execAll (i :: rest) s = .next t ↔ ∃ u, exec i s = .next u ∧ execAll rest u = .next t := by
  rw [execAll]
  cases exec i s <;> simp

theorem KeepsGrid.ne_openBuf {f : Nat} {i : Instr} (h : KeepsGrid f i) (width srate : Nat) : i ≠ .openBuf width srate := by
  rcases h with ⟨b, rfl⟩ | ⟨d, rfl⟩ | ⟨rfl, -⟩ | rfl <;> nofun

theorem execAll_srate_of_keepsGrid {f : Nat} {cmds : List Instr} (hcmds : ∀ i ∈ cmds, KeepsGrid f i) {s t : State}
    (h : execAll cmds s = .next t) : t.srate = s.srate := by
  induction cmds generalizing s with
  | nil =>
    cases h
    rfl
  | cons i rest ih =>
    obtain ⟨hi, hrest⟩ := List.forall_mem_cons.mp hcmds
    obtain ⟨u, hu, ht⟩ := execAll_cons_eq_next_iff.mp h
    exact (ih hrest ht).trans (exec_config hi.ne_openBuf hu).2

/-- Such commands leave the sample rate, so their slots are counted at the rate they started with. -/
theorem execAll_emitted_of_keepsGrid {s : State} {f k : Nat} {cmds : List Instr} (hs : s.Ready) (hpos : 1 ≤ f)
    (hle : 4 * f ≤ s.srate.toNat) (hgrid : s.OnGrid f k) (hcmds : ∀ i ∈ cmds, KeepsGrid f i)
    (hroom : rnd ((k + (cmds.map slotCount).sum) * s.srate.toNat) f ≤ 2 ^ 32 - 1) :
    ∃ t, execAll cmds s = .next t ∧ t.OnGrid f (k + (cmds.map slotCount).sum) ∧
      t.emitted.toNat = rnd ((k + (cmds.map slotCount).sum) * s.srate.toNat) f := by
  obtain ⟨-, -, hstream⟩ := phaseIsContinuous
  obtain ⟨t, ht, -, htgrid⟩ := hstream f k cmds s hs hpos hle hgrid hcmds hroom
  exact ⟨t, ht, htgrid, execAll_srate_of_keepsGrid hcmds ht ▸ htgrid⟩

theorem exec_emitted_of_keepsGrid {s : State} {f k : Nat} {i : Instr} (hs : s.Ready) (hpos : 1 ≤ f)
    (hle : 4 * f ≤ s.srate.toNat) (hgrid : s.OnGrid f k) (hi : KeepsGrid f i)
    (hroom : rnd ((k + slotCount i) * s.srate.toNat) f ≤ 2 ^ 32 - 1) :
    ∃ t, exec i s = .next t ∧ t.OnGrid f (k + slotCount i) ∧
      t.emitted.toNat = rnd ((k + slotCount i) * s.srate.toNat) f := by
  obtain ⟨t, ht, hend⟩ := execAll_emitted_of_keepsGrid hs hpos hle hgrid (List.forall_mem_singleton.mpr hi) hroom
  obtain ⟨u, hu, hut⟩ := execAll_cons_eq_next_iff.mp ht
  cases hut
  exact ⟨t, hu, hend⟩

/-! ### The two bit values (R91) -/

/-- Settles O35: on the grid a bit is one slot whatever its value; off it, a pulse at `F` and two at
`2*F` are each twice `floor(S/(2F))` and at most 2 more. -/
theorem bitValuesTakeEqualTime : Obligations.BitValuesTakeEqualTime := by
  refine ⟨fun s f k hs hpos hle hgrid hroom => ?_, fun S f E hpos _ => ?_⟩
  · have hbit := fun b => exec_emitted_of_keepsGrid hs hpos hle hgrid (i := .bit f b) (.inl ⟨b, rfl⟩) hroom
    obtain ⟨t₀, h₀, hgrid₀, he₀⟩ := hbit false
    obtain ⟨t₁, h₁, hgrid₁, he₁⟩ := hbit true
    exact ⟨t₀, t₁, h₀, h₁, congrArg₂ (· - ·) he₀ hgrid, he₁.trans he₀.symm, hgrid₀, hgrid₁⟩
  · have h2pos : 1 ≤ 2 * f := by omega
    have hhalf : S / (2 * f) = S / f / 2 := by rw [Nat.div_div_eq_div_mul, Nat.mul_comm]
    have hzero := pulseSamples_bounds hpos S E
    have hfirst := pulseSamples_bounds h2pos S E
    have hsecond := pulseSamples_bounds h2pos S (E + pulseSamples S (2 * f) E)
    rw [samplesAfter_singleton_sub, samplesAfter_pair_sub]
    refine ⟨rfl, pulseSamples_floor_or_ceil hpos .., pulseSamples_floor_or_ceil h2pos ..,
      pulseSamples_floor_or_ceil h2pos .., by omega, by omega, fun hmod => ?_⟩
    have hdvd : 2 * f ∣ S := Nat.dvd_of_mod_eq_zero hmod
    have heven : 2 ∣ S / f := Nat.dvd_div_of_mul_dvd (Nat.mul_comm 2 f ▸ hdvd)
    rw [pulseSamples_of_dvd hpos (dvd_of_mul_left_dvd hdvd), pulseSamples_of_dvd h2pos hdvd,
      pulseSamples_of_dvd h2pos hdvd]
    omega

/-! ### Byte frames (R93) -/

theorem sum_slotCount_map_byte (f : Nat) (data : List Nat) :
    ((data.map (.byte f)).map slotCount).sum = 11 * data.length := by
  simp [Function.comp_def, slotCount, Nat.mul_comm]

/-- Settles O36: a frame is eleven slots, and `m` frames are `11*m` from index 0. -/
theorem byteFrameLengthIsExact : Obligations.ByteFrameLengthIsExact := by
  refine ⟨fun s f d k hs hpos hle hgrid hroom => ?_, fun s f data hs hE hpos hle hroom => ?_, by decide, by decide⟩
  · obtain ⟨t, ht, htgrid, he⟩ :=
      exec_emitted_of_keepsGrid hs hpos hle hgrid (i := .byte f d) (.inr (.inl ⟨d, rfl⟩)) hroom
    exact ⟨t, ht, htgrid, congrArg₂ (· - ·) he hgrid⟩
  · have hcmds : ∀ i ∈ data.map (.byte f), KeepsGrid f i := by
      intro i hi
      obtain ⟨d, -, rfl⟩ := List.mem_map.mp hi
      exact .inr (.inl ⟨d, rfl⟩)
    have hslots : 0 + ((data.map (.byte f)).map slotCount).sum = 11 * data.length := by
      rw [Nat.zero_add, sum_slotCount_map_byte]
    rw [← hslots] at hroom ⊢
    obtain ⟨t, ht, -, he⟩ := execAll_emitted_of_keepsGrid hs hpos hle (State.onGrid_zero hE f) hcmds hroom
    exact ⟨t, ht, he⟩

end Sys2Proof.Machine

/-! The pulse count of a short header. From these the statements of `42_header.md`. -/

namespace Sys2Proof.Machine

/-! ### `HdrCount` (R100) -/

/-- R100: `4000*F / 1200` is `10*F / 3`, whose distance to the nearest integer is at most a third. -/
theorem hdrCount_eq_div (f : Nat) : hdrCount f = (10 * f + 1) / 3 :=
  calc
    hdrCount f = rnd (400 * (10 * f)) (400 * 3) := by rw [← Nat.mul_assoc]; rfl
    _ = rnd (10 * f) 3 := rnd_mul_mul_left (by decide) (10 * f) 3
    _ = (10 * f + 1) / 3 := rnd_eq_of_near (by decide) (by omega) (by omega)

/-- Every remainder of `4000*F` by 1200 is a multiple of 400, and the half, 600, is not. -/
theorem hdrCount_no_tie (f : Nat) : 2 * (4000 * f % 1200) ≠ 1200 := by
  have hrem : 4000 * f % 1200 = 400 * (10 * f % 3) := by
    rw [← Nat.mul_mod_mul_left, ← Nat.mul_assoc]
  omega

/-- Settles O31: the closed form is the integer nearest to `10*F / 3`, and R100's values are read off it. -/
theorem headerCountClosedForm : Obligations.HeaderCountClosedForm := by
  refine ⟨fun f => ⟨rfl, hdrCount_eq_div f, hdrCount_no_tie f⟩, ?_⟩
  simp only [hdrCount_eq_div]
  decide

end Sys2Proof.Machine

/-! What FLUSH and OPEN do to the stream, the fault record and the configuration. From these the statements of
`43_session.md`. -/

namespace Sys2Proof.Machine

/-! ### FLUSH (R117, R119) -/

/-- Everything FLUSH can do (R117): hand the buffer off on an open session, raise `ESEQ`, or be discarded. -/
theorem exec_flush_cases {s t : State} (h : exec .flush s = .next t) :
    (s.session = .opened ∧ t = flushBuffer s) ∨
      (s.session ≠ .opened ∧ s.cause = 0#4 ∧ t = s.record Cause.eseq.code (encode .flush)) ∨
        (s.session ≠ .opened ∧ s.cause ≠ 0#4 ∧ t = s) := by
  cases h
  rcases accept_cases .opened true (encode .flush) flushBuffer s with
    ⟨hs, -, e⟩ | ⟨hs, hc, e⟩ | ⟨hc, hdiscard, e⟩
  · exact .inl ⟨hs, e⟩
  · exact .inr (.inl ⟨hs, hc, e⟩)
  · exact .inr (.inr ⟨hdiscard.resolve_left (by decide), hc, e⟩)

/-- The hand-off appends the `End` item, alone or behind the pad byte. -/
theorem flushBuffer_out (s : State) :
    (flushBuffer s).out = s.out ++ [handOff s] ∨ (flushBuffer s).out = s.out ++ [.byte 0x00, handOff s] := by
  by_cases hpad : s.width = 1#3 ∧ s.emitted.toNat % 2 = 1
  · exact .inr (by simp [flushBuffer, padItems, hpad])
  · exact .inl (by simp [flushBuffer, padItems, hpad])

/-- Settles O40: only a FLUSH that raises `ESEQ` writes the record, which was clear; only one that hands off writes `OUT`. -/
theorem flushAddsOnlyPadAndEnd : Obligations.FlushAddsOnlyPadAndEnd := by
  intro s t h
  rcases exec_flush_cases h with ⟨-, rfl⟩ | ⟨-, hc, rfl⟩ | ⟨-, -, rfl⟩
  · exact ⟨fun _ => ⟨rfl, rfl⟩, .inr ((flushBuffer_out s).imp (⟨faulted s, ·⟩) (⟨faulted s, ·⟩))⟩
  · exact ⟨fun hne => absurd hc hne, .inl rfl⟩
  · exact ⟨fun _ => ⟨rfl, rfl⟩, .inl rfl⟩

/-! ### The configuration in a session (R111) -/

/-- OPEN on an open session touches at most the fault record (R111). -/
theorem exec_openBuf_of_opened {s t : State} {width srate : Nat} (hs : s.session = .opened)
    (h : exec (.openBuf width srate) s = .next t) : ∃ code info, t = s.record code info := by
  rcases exec_openBuf_cases h with hrec | ⟨hclosed, -⟩
  · exact hrec
  · simp [hs] at hclosed

/-- No command changes the configuration of an open session: OPEN is refused there, and no other writes it (R111). -/
theorem exec_config_of_opened {i : Instr} {s t : State} (hs : s.session = .opened) (h : exec i s = .next t) :
    t.width = s.width ∧ t.srate = s.srate := by
  by_cases hi : ∃ width srate, i = .openBuf width srate
  · obtain ⟨width, srate, rfl⟩ := hi
    obtain ⟨_, _, rfl⟩ := exec_openBuf_of_opened hs h
    exact ⟨rfl, rfl⟩
  · exact exec_config (by simpa using hi) h

/-- Of the ways a step can go, only a command and a reset come near the configuration (R111). -/
theorem step_config_of_opened {s t : State} (hs : s.session = .opened) (hreset : s.inbox.head? ≠ some .reset)
    (h : step s = .next t) : t.width = s.width ∧ t.srate = s.srate := by
  cases step_cases h with
  | idle _ e | read _ _ _ _ e | ignored _ _ _ _ _ _ e => exact e ▸ ⟨rfl, rfl⟩
  | illegal _ _ _ _ _ e => exact e ▸ ⟨raise_width .., raise_srate ..⟩
  | command _ _ rest _ _ hexec => exact exec_config_of_opened (s := s.withInbox rest) hs hexec
  | reset _ hin _ => exact absurd (by simp [hin]) hreset

/-- Settles O41: by command, for OPEN on an open session, and by step. -/
theorem configurationFixedInSession : Obligations.ConfigurationFixedInSession := by
  refine ⟨fun _ _ _ hi => exec_config hi, fun s t width srate hs h => ?_, fun _ _ => step_config_of_opened⟩
  obtain ⟨_, _, rfl⟩ := exec_openBuf_of_opened hs h
  exact ⟨hs, rfl, rfl⟩

end Sys2Proof.Machine

/-! Every command as its acceptance and its body, the ways a `CMD` write can record a fault, and what can happen while one is
recorded. From these the statements of `60_exceptions.md`. -/

namespace Sys2Proof.Machine

/-! ### A command is its acceptance and its body (R134) -/

/-- The session state a command fits (R110): OPEN a closed session, every other command an open one. -/
def sessionFor : Instr → Session
  | .openBuf _ _ => .closed
  | _ => .opened

/-- What a command does once it is accepted: FLUSH (R117), OPEN (R112), or the check and the pulses (R81, R78). -/
def bodyOf : Instr → State → State
  | .flush => flushBuffer
  | .openBuf width srate => createBuffer (encode (.openBuf width srate)) width srate
  | i => fun s =>
    if freqOk (topFreqOf i) s.srate then emitPulses (encode i) (pulsesOf i) s else raise .efreq (encode i) s

theorem exec_eq_accept (i : Instr) (s : State) :
    exec i s = .next (accept (sessionFor i) (!emits i) (encode i) (bodyOf i) s) := by
  cases i <;> rfl

theorem bodyOf_of_emits {i : Instr} (h : emits i = true) (s : State) : bodyOf i s =
    if freqOk (topFreqOf i) s.srate then emitPulses (encode i) (pulsesOf i) s else raise .efreq (encode i) s := by
  cases i with
  | pulse | bit | byte | shdr | lhdr => rfl
  | flush | openBuf => cases h

theorem sessionFor_of_emits {i : Instr} (h : emits i = true) : sessionFor i = .opened := by
  cases i with
  | pulse | bit | byte | shdr | lhdr => rfl
  | flush | openBuf => cases h

/-- A command out of sequence (R132): OPEN on an open session, any other on a closed one. -/
theorem ne_sessionFor_iff {i : Instr} {x : Session} : x ≠ sessionFor i ↔
    (∃ width srate, i = .openBuf width srate) ∧ x = .opened ∨ (∀ width srate, i ≠ .openBuf width srate) ∧ x = .closed := by
  cases i <;> cases x <;> simp [sessionFor]

/-- Everything a command can do (R134, R135): its body in the session state it fits, `ESEQ`, or nothing under a fault. -/
theorem exec_cases {i : Instr} {s t : State} (h : exec i s = .next t) :
    (s.session = sessionFor i ∧ (s.cause = 0#4 ∨ emits i = false) ∧ t = bodyOf i s) ∨
      (s.session ≠ sessionFor i ∧ s.cause = 0#4 ∧ t = s.record Cause.eseq.code (encode i)) ∨
        (s.cause ≠ 0#4 ∧ t = s) := by
  rw [exec_eq_accept] at h
  cases h
  rcases accept_cases (sessionFor i) (!emits i) (encode i) (bodyOf i) s with ⟨hs, hc, e⟩ | ⟨hs, hc, e⟩ | ⟨hc, -, e⟩
  · exact .inl ⟨hs, by simpa using hc, e⟩
  · exact .inr (.inl ⟨hs, hc, e⟩)
  · exact .inr (.inr ⟨hc, e⟩)

/-- With no fault recorded a command out of sequence raises `ESEQ` (R132). -/
theorem exec_of_session_ne {i : Instr} {s : State} (hs : s.session ≠ sessionFor i) (hc : s.cause = 0#4) :
    exec i s = .next (s.record Cause.eseq.code (encode i)) := by
  rw [exec_eq_accept, accept, if_pos hc, if_neg hs, raise_clear hc]

/-- Under a fault an emitting command is discarded, and so is one out of sequence (R135). -/
theorem exec_discarded {i : Instr} {s : State} (hc : s.cause ≠ 0#4) (h : emits i = true ∨ s.session ≠ sessionFor i) :
    exec i s = .next s := by
  rw [exec_eq_accept, accept, if_neg hc, if_neg]
  rcases h with h | h <;> simp [h]

/-- FLUSH and OPEN in the session state they fit do their body, fault or no fault (R135). -/
theorem exec_of_not_emits {i : Instr} {s : State} (hi : emits i = false) (hs : s.session = sessionFor i) :
    exec i s = .next (bodyOf i s) := by
  rw [exec_eq_accept, hi, Bool.not_false, accept_underFault hs]

/-- The configurations OPEN refuses (R112). -/
theorem createBuffer_of_illegal {width srate : Nat} (h : (width ≠ 1 ∧ width ≠ 2) ∨ srate = 0) (cw : Word) (s : State) :
    createBuffer cw width srate s = raise .ecfg cw s :=
  if_pos (h.imp_left not_or.mpr)

/-- The configurations OPEN takes (R112). -/
theorem createBuffer_of_legal {width srate : Nat} (hw : width = 1 ∨ width = 2) (hr : srate ≠ 0) (cw : Word) (s : State) :
    createBuffer cw width srate s = clearFault (s.create (BitVec.ofNat 3 width) (BitVec.ofNat 24 srate)) :=
  if_neg (not_or.mpr ⟨not_not.mpr hw, hr⟩)

/-- What the body of OPEN can do, each outcome with the configurations that lead to it (R112). -/
theorem createBuffer_branches (cw : Word) (width srate : Nat) (s : State) :
    (((width ≠ 1 ∧ width ≠ 2) ∨ srate = 0) ∧ createBuffer cw width srate s = raise .ecfg cw s) ∨
      ((width = 1 ∨ width = 2) ∧ srate ≠ 0 ∧
        createBuffer cw width srate s = clearFault (s.create (BitVec.ofNat 3 width) (BitVec.ofNat 24 srate))) := by
  by_cases hcfg : (width ≠ 1 ∧ width ≠ 2) ∨ srate = 0
  · exact .inl ⟨hcfg, createBuffer_of_illegal hcfg cw s⟩
  · obtain ⟨hw, hr⟩ : (width = 1 ∨ width = 2) ∧ srate ≠ 0 := by omega
    exact .inr ⟨hw, hr, createBuffer_of_legal hw hr cw s⟩

/-- OPEN with a legal configuration on a closed session succeeds, fault or no fault (R112, R135). -/
theorem exec_openBuf_of_legal {width srate : Nat} {s : State} (hs : s.session = .closed) (hw : width = 1 ∨ width = 2)
    (hr : srate ≠ 0) : exec (.openBuf width srate) s =
      .next (clearFault (s.create (BitVec.ofNat 3 width) (BitVec.ofNat 24 srate))) := by
  rw [exec_of_not_emits rfl hs, bodyOf, createBuffer_of_legal hw hr]

/-- A `CMD` write of a word that decodes runs its command (R134). -/
theorem step_of_command {s : State} {w : Word} {rest : List Input} {i : Instr} (hin : s.inbox = cmdWrite w :: rest)
    (hdec : decode w = .command i) : step s = exec i (s.withInbox rest) := by
  rw [step_of_inbox_cons hin]
  change execute w _ = _
  rw [execute, hdec]

/-! ### Recording a fault (R130, R137) -/

/-- R130's table: the ways a command word records a fault on a state that has none, and the state each leaves. -/
inductive FaultCase (s : State) (w : Word) (t : State) : Prop where
  /-- OPEN on a closed session with a bad width or rate. -/
  | ecfg (width srate : Nat) (hdec : decode w = .command (.openBuf width srate)) (hs : s.session = .closed)
      (hcfg : (width ≠ 1 ∧ width ≠ 2) ∨ srate = 0) (ht : t = s.record Cause.ecfg.code w)
  /-- A command out of sequence. -/
  | eseq (i : Instr) (hdec : decode w = .command i) (hs : s.session ≠ sessionFor i) (ht : t = s.record Cause.eseq.code w)
  /-- A word that does not decode. -/
  | eill (why : Illegal) (hdec : decode w = .illegal why) (ht : t = s.record Cause.eill.code w)
  /-- An emitting command on an open session that fails its check (R81). -/
  | efreq (i : Instr) (hdec : decode w = .command i) (hi : emits i = true) (hs : s.session = .opened)
      (hf : freqOk (topFreqOf i) s.srate = false) (ht : t = s.record Cause.efreq.code w)
  /-- An emitting command whose pulses do not all fit: the first `n` fit the counter and the next one does not. -/
  | eovf (i : Instr) (n : Nat) (hdec : decode w = .command i) (hi : emits i = true) (hs : s.session = .opened)
      (hn : n < (pulsesOf i).length) (hfit : s.samplesAfter ((pulsesOf i).take n) ≤ Config.maxSamples)
      (hover : Config.maxSamples < s.samplesAfter ((pulsesOf i).take (n + 1)))
      (ht : t = (s.afterPulses ((pulsesOf i).take n)).record Cause.eovf.code w)

/-- A command that is carried out and records a fault is an emitting one, stopped by its check or by the counter, or an OPEN
with a configuration it refuses. -/
theorem FaultCase.of_body {i : Instr} {s : State} {w : Word} (hdec : decode w = .command i)
    (hs : s.session = sessionFor i) (hc : s.cause = 0#4) (ht : (bodyOf i s).cause ≠ 0#4) :
    FaultCase s w (bodyOf i s) := by
  obtain rfl := encode_of_decode hdec
  cases hi : emits i with
  | true =>
    rw [bodyOf_of_emits hi] at ht ⊢
    rw [sessionFor_of_emits hi] at hs
    cases hf : freqOk (topFreqOf i) s.srate with
    | false => exact .efreq i hdec hi hs hf (raise_clear hc)
    | true =>
      rw [hf] at ht
      rcases emitPulses_cases (encode i) (pulsesOf i) s with ⟨-, e⟩ | ⟨n, hn, hfit, hover, e⟩
      · rw [if_pos rfl, e] at ht
        exact absurd hc ht
      · exact .eovf i n hdec hi hs hn hfit hover (e.trans (raise_clear hc))
  | false =>
    rcases not_emits_iff.mp hi with rfl | ⟨width, srate, rfl⟩
    · exact absurd hc ht
    · rcases createBuffer_branches (encode (.openBuf width srate)) width srate s with ⟨hcfg, e⟩ | ⟨-, -, e⟩
      · exact .ecfg width srate hdec hs hcfg (e.trans (raise_clear hc))
      · rw [bodyOf, e] at ht
        exact absurd rfl ht

/-- Every fault a `CMD` write records is a row of R130's table. -/
theorem step_faultCase {s t : State} {w : Word} {rest : List Input} (hin : s.inbox = cmdWrite w :: rest)
    (hc : s.cause = 0#4) (h : step s = .next t) (ht : t.cause ≠ 0#4) : FaultCase (s.withInbox rest) w t := by
  cases hdec : decode w with
  | illegal why =>
    rw [step_of_illegal hin hdec, raise_clear (s := s.withInbox rest) hc] at h
    cases h
    exact .eill why hdec rfl
  | command i =>
    rw [step_of_command hin hdec] at h
    rcases exec_cases h with ⟨hs, -, rfl⟩ | ⟨hs, -, rfl⟩ | ⟨hne, -⟩
    · exact .of_body hdec hs hc ht
    · exact .eseq i hdec hs (by rw [encode_of_decode hdec])
    · exact absurd hc hne

/-! ### While a fault is recorded (R135, R136, R140) -/

/-- Under a fault a command keeps the fault record, unless it is an OPEN that succeeds. -/
theorem exec_under_fault {i : Instr} {s t : State} (hc : s.cause ≠ 0#4) (h : exec i s = .next t) :
    (t.cause = s.cause ∧ t.errinfo = s.errinfo) ∨
      ∃ width srate, i = .openBuf width srate ∧ s.session = .closed ∧ (width = 1 ∨ width = 2) ∧ srate ≠ 0 ∧
        t = clearFault (s.create (BitVec.ofNat 3 width) (BitVec.ofNat 24 srate)) := by
  rcases exec_cases h with ⟨hs, hi, rfl⟩ | ⟨-, hzero, -⟩ | ⟨-, rfl⟩
  · rcases not_emits_iff.mp (hi.resolve_left hc) with rfl | ⟨width, srate, rfl⟩
    · exact .inl ⟨rfl, rfl⟩
    · rcases createBuffer_branches (encode (.openBuf width srate)) width srate s with ⟨-, e⟩ | ⟨hw, hr, e⟩
      · rw [bodyOf, e, raise_recorded hc]
        exact .inl ⟨rfl, rfl⟩
      · exact .inr ⟨width, srate, rfl, hs, hw, hr, e⟩
  · exact absurd hzero hc
  · exact .inl ⟨rfl, rfl⟩

/-! ### The statements -/

/-- Settles O8: the step is `Execute`, and the machine's `Execute` is R134's. -/
theorem stepIsExecuteLineByLine : Obligations.StepIsExecuteLineByLine := fun _ _ _ hin => step_of_cmdWrite hin

/-- Settles O12: a word is no command, or a command whose acceptance under a fault is known. -/
theorem recordedFaultDiscards : Obligations.RecordedFaultDiscards := by
  refine fun s w rest hc hin => ⟨fun hflush hopen => ?_, fun hdec hs => ?_, fun width srate hdec hs => ?_⟩
  · cases hdec : decode w with
    | illegal why =>
      rw [step_of_illegal hin hdec, raise_recorded (s := s.withInbox rest) hc]
      rfl
    | command i =>
      rw [hdec] at hflush hopen
      rw [step_of_command hin hdec]
      refine exec_discarded hc ?_
      cases hi : emits i with
      | true => exact .inl rfl
      | false =>
        refine .inr (ne_sessionFor_iff.mpr ?_)
        rcases not_emits_iff.mp hi with rfl | ⟨width, srate, rfl⟩
        · exact .inr ⟨nofun, hflush.resolve_left (not_not.mpr rfl)⟩
        · exact .inl ⟨⟨width, srate, rfl⟩, hopen.resolve_left fun h => h width srate rfl⟩
  · rw [step_of_command hin hdec, exec_of_not_emits rfl hs]
    exact congrArg _ (flushBuffer_eq_reference _)
  · rw [step_of_command hin hdec, exec_of_not_emits rfl hs, bodyOf, encode_of_decode hdec]
    exact congrArg _ (createBuffer_eq_reference ..)

/-- Settles O13: both branches of a raise; only a successful OPEN changes a recorded cause, and it clears it. -/
theorem firstFaultIsKept : Obligations.FirstFaultIsKept := by
  refine ⟨fun c w s => raise_clear, fun c w s => raise_recorded, fun width srate s hc hs hcfg => ?_,
    fun i s t h hne => ?_, fun w fp rest s h => ?_⟩
  · rw [exec_of_not_emits rfl hs, bodyOf, createBuffer_of_illegal hcfg, raise_recorded hc]
  · by_cases hc : s.cause = 0#4
    · exact .inl hc
    · rcases exec_under_fault hc h with ⟨hkept, -⟩ | ⟨_, _, -, -, -, -, rfl⟩
      · exact absurd hkept hne
      · exact .inr rfl
  · rw [emitPulses, h]

/-- Settles O14: four of R130's rows record the fault and do no more, and `EOVF` does so after the pulses that fit. -/
theorem faultsArePrecise : Obligations.FaultsArePrecise := by
  intro s w rest t hin hc h ht
  cases step_faultCase hin hc h ht with
  | ecfg _ _ _ _ _ e => exact .inl (e ▸ ⟨(by decide : Cause.ecfg.code ≠ 5), rfl⟩)
  | eseq _ _ _ e => exact .inl (e ▸ ⟨(by decide : Cause.eseq.code ≠ 5), rfl⟩)
  | eill _ _ e => exact .inl (e ▸ ⟨(by decide : Cause.eill.code ≠ 5), rfl⟩)
  | efreq _ _ _ _ _ e => exact .inl (e ▸ ⟨(by decide : Cause.efreq.code ≠ 5), rfl⟩)
  | eovf i n hdec _ _ hn hfit hover e =>
    subst e
    refine .inr ⟨rfl, i, n, hdec, hn, hfit, hover, rfl, ?_⟩
    change s.pulses + BitVec.ofNat 32 ((pulsesOf i).take n).length = _
    rw [List.length_take_of_le hn.le]

/-- Settles O15: R130's rows, one by one; a pulse that overflows the counter overflows it for the whole command. -/
theorem everyFaultHasItsCause : Obligations.EveryFaultHasItsCause := by
  intro s w rest t hin hc h ht
  cases step_faultCase hin hc h ht with
  | ecfg width srate hdec hs hcfg e => exact e ▸ ⟨rfl, .inl ⟨rfl, width, srate, hdec, hs, hcfg⟩⟩
  | eseq i hdec hs e => exact e ▸ ⟨rfl, .inr (.inl ⟨rfl, i, hdec, ne_sessionFor_iff.mp hs⟩)⟩
  | eill why hdec e => exact e ▸ ⟨rfl, .inr (.inr (.inl ⟨rfl, why, hdec⟩))⟩
  | efreq i hdec hi hs hf e =>
    exact e ▸ ⟨rfl, .inr (.inr (.inr (.inl ⟨rfl, i, hdec, hi, hs, freqOk_eq_false_iff.mp hf⟩)))⟩
  | eovf i n hdec hi hs _ _ hover e =>
    have hall := samplesAfter_le_append (s.withInbox rest) ((pulsesOf i).take (n + 1)) ((pulsesOf i).drop (n + 1))
    rw [List.take_append_drop] at hall
    exact e ▸ ⟨rfl, .inr (.inr (.inr (.inr ⟨rfl, i, hdec, hi, hs, hover.trans_le hall⟩)))⟩

/-- Settles O16: of the ways a step can go only a reset and a successful OPEN touch a recorded fault; FLUSH then OPEN is the
way back of an open session. -/
theorem faultLeftOnlyByOpenOrReset : Obligations.FaultLeftOnlyByOpenOrReset := by
  refine ⟨fun s t hc h => ?_, fun s width srate hc hs hw hr => ?_, fun s width srate _ hs hw hr => ?_⟩
  · cases step_cases h with
    | idle _ e | read _ _ _ _ e | ignored _ _ _ _ _ _ e => exact .inl (e ▸ ⟨rfl, rfl⟩)
    | illegal _ _ rest _ _ e =>
      rw [raise_recorded (s := s.withInbox rest) hc] at e
      exact .inl (e ▸ ⟨rfl, rfl⟩)
    | reset rest hin e => exact .inr (e ▸ ⟨rfl, rfl, .inl ⟨rest, hin⟩⟩)
    | command w i rest hin hdec hexec =>
      rcases exec_under_fault (s := s.withInbox rest) hc hexec with hkept | ⟨width, srate, rfl, hs, hw, hr, rfl⟩
      · exact .inl hkept
      · exact .inr ⟨rfl, rfl, .inr ⟨w, rest, width, srate, hin, hdec, hs, hw, hr, rfl⟩⟩
  · have hlast : (flushBuffer s).out.getLast? = some (.endItem 1 s.width s.srate true) := by
      have hflt : faulted s = true := bne_iff_ne.mpr hc
      rcases flushBuffer_out s with e | e <;> simp [e, handOff, hflt]
    exact ⟨_, _, exec_of_not_emits rfl hs, rfl, hlast, exec_openBuf_of_legal rfl hw hr, rfl, rfl, rfl, rfl, rfl, rfl⟩
  · exact ⟨_, exec_openBuf_of_legal hs hw hr, rfl, rfl, rfl⟩

/-- Settles O10: the step is the raise of `EILL`. -/
theorem illegalCommandRecordsEill : Obligations.IllegalCommandRecordsEill := by
  intro s w rest why hin hc hdec
  rw [step_of_illegal hin hdec, raise_clear (s := s.withInbox rest) hc]
  exact ⟨_, rfl, rfl, rfl, rfl, rfl⟩

/-- Settles O11: the two ways of being out of sequence are one, that the session is not the one the command fits. -/
theorem sequenceErrorRecordsEseq : Obligations.SequenceErrorRecordsEseq := by
  intro s w rest i hin hc hdec hseq
  rw [step_of_command hin hdec, exec_of_session_ne (s := s.withInbox rest) (ne_sessionFor_iff.mpr hseq) hc,
    encode_of_decode hdec]
  rfl

/-- Settles O52: the step takes an input only when one waits. -/
theorem idleBlockKeepsItsState : Obligations.IdleBlockKeepsItsState := fun _ => step_of_inbox_nil

end Sys2Proof.Machine

/-! Every sample is at one of the two levels: what keeps that, operation by operation, and the step. From these the statement
of `40_tone_clock_pulse.md` section 3 (R76). -/

namespace Sys2Proof.Machine

/-! ### Samples at the two levels (R76, R77) -/

theorem levels16_append {xs ys : List Byte} (hx : levels16 xs = true) (hy : levels16 ys = true) :
    levels16 (xs ++ ys) = true := by
  induction xs using levels16.induct with
  | case1 => exact hy
  | case2 => cases hx
  | case3 a b rest ih =>
    simp only [levels16, Bool.and_eq_true, List.cons_append] at hx ⊢
    exact hx.imp_right ih

theorem onlyLevels_append {w : BitVec 3} {xs ys : List Byte} (hx : onlyLevels w xs = true) (hy : onlyLevels w ys = true) :
    onlyLevels w (xs ++ ys) = true := by
  unfold onlyLevels at *
  split_ifs at * with hw
  · rw [levels8, List.all_append, Bool.and_eq_true]
    exact ⟨hx, hy⟩
  · exact levels16_append hx hy

@[simp] theorem onlyLevels_nil (w : BitVec 3) : onlyLevels w [] = true := by
  unfold onlyLevels
  split_ifs <;> rfl

theorem onlyLevels_sampleBytes (w : BitVec 3) (l : Level) : onlyLevels w (sampleBytes w (l.value w)) = true := by
  cases l with
  | lo => exact (by decide : ∀ w, onlyLevels w (sampleBytes w (Level.lo.value w)) = true) w
  | hi => exact (by decide : ∀ w, onlyLevels w (sampleBytes w (Level.hi.value w)) = true) w

theorem onlyLevels_sampleRunBytes (w : BitVec 3) (l : Level) (n : Nat) : onlyLevels w (sampleRunBytes w l n) = true := by
  induction n with
  | zero => exact onlyLevels_nil w
  | succ n ih =>
    rw [sampleRunBytes, List.replicate_succ, List.flatten_cons]
    exact onlyLevels_append (onlyLevels_sampleBytes w l) ih

theorem onlyLevels_trainBytes (w : BitVec 3) (srate emitted : Nat) (train : List Nat) :
    onlyLevels w (trainBytes w srate emitted train) = true := by
  induction train generalizing emitted with
  | nil => exact onlyLevels_nil w
  | cons fp rest ih =>
    exact onlyLevels_append
      (onlyLevels_append (onlyLevels_sampleRunBytes w .lo _) (onlyLevels_sampleRunBytes w .hi _)) (ih _)

/-- The pad is a low sample where there is one: it is written at width 1 only (R117). -/
theorem onlyLevels_pad (w : BitVec 3) (emitted : Nat) :
    onlyLevels w (List.replicate (padCount w.toNat emitted) 0x00) = true := by
  unfold padCount
  split_ifs with hpad
  · rw [BitVec.eq_of_toNat_eq (y := 1#3) hpad.1]
    rfl
  · exact onlyLevels_nil w

/-! ### What keeps the samples at the two levels -/

namespace State.TwoLevel

variable {s : State}

theorem withInbox (h : s.TwoLevel) (inbox : List Input) : (s.withInbox inbox).TwoLevel := { h with }

theorem answer (h : s.TwoLevel) (v : Word) : (s.answer v).TwoLevel := { h with }

theorem record (h : s.TwoLevel) (code : BitVec 4) (w : Word) : (s.record code w).TwoLevel := { h with }

theorem raise (h : s.TwoLevel) (c : Cause) (w : Word) : (raise c w s).TwoLevel := by
  obtain ⟨code, info, e⟩ := raise_record c w s
  exact e ▸ h.record code info

/-- The stream is empty after reset (R25). -/
theorem reset : State.reset.TwoLevel := by
  constructor <;> simp [Config.WidthLegal, sessionsOf]

theorem restart (s : State) : s.restart.TwoLevel := { reset with }

/-- Pulses add low and high runs to the session that is open (R78). -/
theorem afterPulses (h : s.TwoLevel) (hs : s.session = .opened) (train : List Nat) : (s.afterPulses train).TwoLevel := by
  have hstream := sessionsOf_afterPulses s train
  exact
    { widthLegal := h.widthLegal
      closedSessions := by rw [hstream]; exact h.closedSessions
      openSession := fun _ => by
        rw [hstream]
        exact onlyLevels_append (h.openSession hs) (onlyLevels_trainBytes ..)
      closedQuiet := fun hc => nomatch hs.symm.trans hc }

theorem emitPulses (h : s.TwoLevel) (hs : s.session = .opened) (cw : Word) (train : List Nat) :
    (emitPulses cw train s).TwoLevel := by
  rcases emitPulses_cases cw train s with ⟨-, e⟩ | ⟨n, -, -, -, e⟩ <;> rw [e]
  · exact h.afterPulses hs train
  · exact (h.afterPulses hs _).raise .eovf cw

/-- FLUSH moves the open session, and its pad, to the closed ones (R117). -/
theorem flushBuffer (h : s.TwoLevel) (hs : s.session = .opened) : (flushBuffer s).TwoLevel := by
  have hstream := sessionsOf_flushBuffer s
  exact
    { widthLegal := h.widthLegal
      closedSessions := fun c hc => by
        rw [hstream, List.mem_append, List.mem_singleton] at hc
        rcases hc with hc | rfl
        · exact h.closedSessions c hc
        · exact onlyLevels_append (h.openSession hs) (onlyLevels_pad ..)
      openSession := nofun
      closedQuiet := fun _ => by rw [hstream] }

/-- A successful OPEN starts from an empty session (R112). -/
theorem create (h : s.TwoLevel) (hs : s.session = .closed) {w : BitVec 3} (hw : Config.WidthLegal w.toNat)
    (r : BitVec 24) : (clearFault (s.create w r)).TwoLevel where
  widthLegal := hw
  closedSessions := h.closedSessions
  openSession _ := by
    change onlyLevels w (sessionsOf s.out).current = true
    rw [h.closedQuiet hs]
    exact onlyLevels_nil w
  closedQuiet := nofun

theorem createBuffer (h : s.TwoLevel) (hs : s.session = .closed) (cw : Word) (width srate : Nat) :
    (createBuffer cw width srate s).TwoLevel := by
  rcases createBuffer_cases cw width srate s with e | ⟨hw, -, e⟩ <;> rw [e]
  · exact h.raise .ecfg cw
  · refine h.create hs ?_ _
    rcases hw with rfl | rfl
    · exact .inl rfl
    · exact .inr rfl

/-- What a command does once it is accepted, in the session state it fits. -/
theorem bodyOf (h : s.TwoLevel) {i : Instr} (hs : s.session = sessionFor i) : (bodyOf i s).TwoLevel := by
  cases hi : emits i with
  | true =>
    rw [sessionFor_of_emits hi] at hs
    rw [bodyOf_of_emits hi]
    split_ifs
    · exact h.emitPulses hs _ _
    · exact h.raise .efreq _
  | false =>
    rcases not_emits_iff.mp hi with rfl | ⟨width, srate, rfl⟩
    · exact h.flushBuffer hs
    · exact h.createBuffer hs _ width srate

theorem exec {i : Instr} {t : State} (h : s.TwoLevel) (ht : exec i s = .next t) : t.TwoLevel := by
  rcases exec_cases ht with ⟨hs, -, rfl⟩ | ⟨-, -, rfl⟩ | ⟨-, rfl⟩
  · exact h.bodyOf hs
  · exact h.record _ _
  · exact h

theorem step {t : State} (h : s.TwoLevel) (ht : step s = .next t) : t.TwoLevel := by
  cases step_cases ht with
  | idle _ e => exact e ▸ h
  | read _ _ rest _ e => exact e ▸ (h.withInbox rest).answer _
  | ignored _ _ _ rest _ _ e => exact e ▸ h.withInbox rest
  | command _ _ rest _ _ hexec => exact (h.withInbox rest).exec hexec
  | illegal w _ rest _ _ e => exact e ▸ (h.withInbox rest).raise .eill w
  | reset rest _ e => exact e ▸ restart _

end State.TwoLevel

/-- Settles O60: each way a step can go keeps the two levels. -/
theorem everySampleIsLoOrHi : Obligations.EverySampleIsLoOrHi := fun _ _ => State.TwoLevel.step

/-- Settles O58: both invariants hold of the literals of R10's table. -/
theorem resetMeetsTheInvariants : Obligations.ResetMeetsTheInvariants := ⟨State.Inv.reset, State.TwoLevel.reset⟩

end Sys2Proof.Machine

/-! What each command does when it is carried out: the index off the grid, the pulses of the five emitting commands, and OPEN
and FLUSH in full. From these the remaining statements of `40_tone_clock_pulse.md` to `43_session.md`. -/

namespace Sys2Proof.Machine

/-! ### The index off the grid (`40_tone_clock_pulse.md` R86) -/

/-- An exact half rounds to an even integer (R70). -/
theorem rnd_even_of_half {a b : Nat} (h : 2 * (a % b) = b) : rnd a b % 2 = 0 := by
  rcases rnd_cases a b with ⟨h', -⟩ | ⟨h', -⟩ | ⟨-, hq, e⟩ | ⟨-, hq, e⟩ <;> omega

/-- Settles O25: the index is a rounding, so the half bounds and the rule for an exact half are those of `rnd`. -/
theorem offGridIndexIsNearest : Obligations.OffGridIndexIsNearest := by
  refine ⟨fun S fp E hS => ?_, fun S fp E _ => rnd_even_of_half, by decide⟩
  have hring : 2 * (pulseIndex S fp E * S) = 2 * S * pulseIndex S fp E := by ring
  rw [hring]
  exact ⟨rnd_lower (E * fp) hS, rnd_upper (E * fp)⟩

/-! ### The pulses of an emitting command (R79, R90, R92, R101, R102) -/

/-- An emitting command whose highest frequency is legal and whose pulses fit emits and counts every one of them. -/
theorem exec_emits_train {i : Instr} {s : State} {train : List Nat} (hi : emits i = true) (hs : s.Ready)
    (hpos : 1 ≤ topFreqOf i) (hle : 2 * topFreqOf i ≤ s.srate.toNat) (htrain : pulsesOf i = train)
    (hfit : s.samplesAfter train ≤ Config.maxSamples) :
    exec i s = .next (s.afterPulses train) ∧
      (s.afterPulses train).pulses = s.pulses + BitVec.ofNat 32 train.length := by
  subst htrain
  exact ⟨exec_of_fits hi hs (freqOk_iff.mpr ⟨hpos, hle⟩) hfit, rfl⟩

/-- One pulse is a low run and a high run (R78). -/
theorem afterPulses_singleton (s : State) (fp : Nat) :
    let lo := lowSamples s.srate.toNat fp s.emitted.toNat
    let hi := highSamples s.srate.toNat fp s.emitted.toNat
    s.afterPulses [fp] = { s with
      out := s.out ++ sampleRun s.width .lo lo ++ sampleRun s.width .hi hi
      emitted := BitVec.ofNat 32 (s.emitted.toNat + lo + hi)
      pulses := s.pulses + 1 } := by
  simp [State.afterPulses, State.samplesAfter, samplesAfter, trainItems, pulseSamples, Nat.add_assoc]

/-- Settles O26: the boundaries written out are those of the pulse at the index picked (R72, R73). -/
theorem pulseEmitsOneToneCycle : Obligations.PulseEmitsOneToneCycle := by
  intro s f hs hpos hle S E p start mid stop hroom
  have hfit : s.samplesAfter [f] ≤ Config.maxSamples := (Nat.add_assoc ..).symm.trans_le hroom
  obtain ⟨hexec, -⟩ := exec_emits_train (i := .pulse f) rfl hs hpos hle rfl hfit
  exact hexec.trans (congrArg _ (afterPulses_singleton s f))

/-- Settles O27: the train of a bit is one pulse at `F` or two at `2*F`. -/
theorem bitEmitsOneOrTwoPulses : Obligations.BitEmitsOneOrTwoPulses := by
  refine ⟨fun s f hs hpos hle hfit => ?_, fun s f hs hpos hle hfit => ?_⟩
  · exact exec_emits_train (i := .bit f false) rfl hs hpos hle rfl hfit
  · have hpos2 : 1 ≤ 2 * f := by omega
    have hle2 : 2 * (2 * f) ≤ s.srate.toNat := by omega
    exact exec_emits_train (i := .bit f true) rfl hs hpos2 hle2 rfl hfit

/-- A slot is one pulse, and one more where its bit is 1 (R90). -/
theorem length_flatMap_slotPulses (f : Nat) (slots : List Bool) :
    (slots.flatMap (slotPulses f)).length = slots.length + slots.count true := by
  induction slots with
  | nil => rfl
  | cons b rest ih =>
    rw [List.flatMap_cons, List.length_append, ih]
    cases b <;> simp [slotPulses] <;> omega

/-- The 1 slots of a byte: its 1 bits and the two stop bits (R92). -/
theorem count_true_byteSlots (d : Nat) :
    (byteSlots d).count true = ((List.range 8).filter (fun k => d.testBit k)).length + 2 := by
  have hslots : byteSlots d = false :: ((List.range 8).map d.testBit ++ [true, true]) := rfl
  rw [hslots, List.count_cons_of_ne (by decide), List.count_append, List.count_eq_countP, List.countP_map,
    List.countP_eq_length_filter]
  simp [Function.comp_def]

/-- `13 + popcount(D)` pulses (R92). -/
theorem length_bytePulses (f d : Nat) :
    (bytePulses f d).length = 13 + ((List.range 8).filter (fun k => d.testBit k)).length := by
  have hslots : (byteSlots d).length = 11 := rfl
  rw [bytePulses, length_flatMap_slotPulses, count_true_byteSlots, hslots]
  omega

/-- Settles O28: the slots written out are those of the byte, each of them its pulses. -/
theorem byteEmitsElevenSlots : Obligations.ByteEmitsElevenSlots := by
  intro s f d hs hpos hle slots train popcount
  have hlen : train.length = 13 + popcount := length_bytePulses f d.toNat
  refine ⟨rfl, hlen, fun hfit => ?_⟩
  have hpos2 : 1 ≤ 2 * f := by omega
  have hle2 : 2 * (2 * f) ≤ s.srate.toNat := by omega
  rw [← hlen]
  exact exec_emits_train (i := .byte f d.toNat) rfl hs hpos2 hle2 rfl hfit

/-- A header, short or long, is `n` pulses at `2*F` (R101, R102). -/
theorem exec_header {i : Instr} {s : State} {f n : Nat} (hi : emits i = true) (htop : topFreqOf i = 2 * f)
    (hpulses : pulsesOf i = List.replicate n (2 * f)) (hs : s.Ready) (hpos : 1 ≤ f) (hle : 4 * f ≤ s.srate.toNat)
    (hfit : s.samplesAfter (List.replicate n (2 * f)) ≤ Config.maxSamples) :
    exec i s = .next (s.afterPulses (List.replicate n (2 * f))) ∧
      (s.afterPulses (List.replicate n (2 * f))).pulses = s.pulses + BitVec.ofNat 32 n := by
  have hlen : (List.replicate n (2 * f)).length = n := List.length_replicate
  have htrain := exec_emits_train hi hs (by omega) (by omega) hpulses hfit
  rwa [hlen] at htrain

/-- Settles O29: the header of `HdrCount(F)` pulses. -/
theorem shortHeaderEmitsItsPulses : Obligations.ShortHeaderEmitsItsPulses :=
  fun _ f => exec_header (i := .shdr f) rfl rfl rfl

/-- Settles O30: the header of four times `HdrCount(F)` pulses; at 1201 the rounded count is not the quarter of the rounded
fourfold. -/
theorem longHeaderEmitsFourShort : Obligations.LongHeaderEmitsFourShort :=
  ⟨fun _ f => exec_header (i := .lhdr f) rfl rfl (longHeaderPulses_eq_replicate f), by decide, by decide⟩

/-- Settles O32: `HdrCount(F)` pulses at `2*F` move as many indices along its grid. -/
theorem shortHeaderMovesAlongGrid : Obligations.ShortHeaderMovesAlongGrid := by
  intro s f q hs hpos hle hgrid hroom
  have hpos2 : 1 ≤ 2 * f := by omega
  have htrain := hgrid.samplesAfter_replicate hpos2 (by omega) (hdrCount f)
  have hend := onGrid_afterPulses htrain hroom
  obtain ⟨hexec, -⟩ := exec_header (i := .shdr f) rfl rfl rfl hs hpos hle (htrain.trans_le hroom)
  refine ⟨_, hexec, hend, ?_⟩
  have hmono : rnd (q * s.srate.toNat) (2 * f) ≤ rnd ((q + hdrCount f) * s.srate.toNat) (2 * f) :=
    rnd_mono hpos2 (Nat.mul_le_mul_right _ (Nat.le_add_right ..))
  rw [hgrid, Nat.add_sub_cancel' hmono]
  exact hend

/-! ### OPEN and FLUSH (`43_session.md` R112, R117) -/

/-- Settles O38: the body of OPEN on a closed session, and acceptance on an open one. -/
theorem openCreatesTheBuffer : Obligations.OpenCreatesTheBuffer := by
  refine ⟨fun s width srate hs hw hr _ => exec_openBuf_of_legal hs hw hr, fun s width srate hs hcfg hc => ?_,
    fun s width srate hs hc => ?_, fun s width srate hs hc => ?_⟩
  · rw [exec_of_not_emits rfl hs, bodyOf, createBuffer_of_illegal hcfg, raise_clear hc]
    rfl
  · exact exec_of_session_ne (by simp [hs, sessionFor]) hc
  · exact exec_discarded hc (.inr (by simp [hs, sessionFor]))

/-- Settles O39: the body of FLUSH on an open session, and acceptance on a closed one. -/
theorem flushHandsTheBufferOff : Obligations.FlushHandsTheBufferOff := by
  refine ⟨fun s hs => ?_, fun s hs hc => ?_, fun s hs hc => ?_⟩
  · have hflt : (if s.cause = 0#4 then false else true) = decide (s.cause ≠ 0#4) := by simp
    rw [exec_of_not_emits rfl hs, bodyOf, flushBuffer_eq_reference, referenceFlush, hflt]
  · exact exec_of_session_ne (by simp [hs, sessionFor]) hc
  · exact exec_discarded hc (.inr (by simp [hs, sessionFor]))

/-! ### Every input is answered (`60_exceptions.md` R142) -/

/-- No input stops the block: a `CMD` write is executed, and anything else answers by its definition. -/
theorem exists_takeInput_eq_next (x : Input) (s : State) : ∃ t, takeInput x s = .next t := by
  cases x with
  | read | reset => exact ⟨_, rfl⟩
  | write size off w =>
    by_cases hcmd : size = .word ∧ off = 0x00
    · obtain ⟨rfl, rfl⟩ := hcmd
      exact ⟨_, execute_eq_reference w s⟩
    · exact ⟨_, busWrite_of_not_cmd (not_and_or.mp hcmd) w s⟩

theorem exists_step_eq_next (s : State) : ∃ t, step s = .next t := by
  cases hin : s.inbox with
  | nil => exact ⟨s, step_of_inbox_nil hin⟩
  | cons x rest =>
    rw [step_of_inbox_cons hin]
    exact exists_takeInput_eq_next x _

/-- The longest train is that of a long header at the greatest frequency, `4 * 218450` pulses. -/
theorem length_pulsesOf_le {i : Instr} (h : i.wf = true) : (pulsesOf i).length ≤ 873800 := by
  cases i with
  | pulse => simp [pulsesOf]
  | bit f b => cases b <;> simp [pulsesOf, slotPulses]
  | byte f d =>
    have hbits := List.length_filter_le (fun k => d.testBit k) (List.range 8)
    rw [List.length_range] at hbits
    rw [pulsesOf, length_bytePulses]
    omega
  | shdr f =>
    have hf : f < 65536 := freqInRange_iff.mp h
    rw [pulsesOf, shortHeaderPulses, List.length_replicate, hdrCount_eq_div]
    omega
  | lhdr f =>
    have hf : f < 65536 := freqInRange_iff.mp h
    rw [pulsesOf, longHeaderPulses_eq_replicate, List.length_replicate, hdrCount_eq_div]
    omega
  | flush | openBuf => exact Nat.zero_le _

theorem faulted_eq_false_iff {s : State} : faulted s = false ↔ s.cause = 0#4 := by
  simp [faulted]

/-- Settles O18: a step and a command always answer, and a command is a bounded number of pulses. -/
theorem nothingIsEverStuck : Obligations.NothingIsEverStuck := by
  refine ⟨exists_step_eq_next, fun i s => ⟨_, exec_eq_accept i s⟩, fun i s t hi hc h => ?_,
    fun _ => length_pulsesOf_le, fun s t hs h => ⟨faulted s, ?_, faulted_eq_false_iff⟩⟩
  · cases (exec_of_fault hi hc).symm.trans h
    rfl
  · cases (exec_of_not_emits rfl hs).symm.trans h
    rcases flushBuffer_out s with e | e <;> simp [bodyOf, e, handOff]

end Sys2Proof.Machine

/-! What the commands leave unchanged, what a step can do to `OUT` and the counters, and that `PULSES` decides nothing. From
these the frames of `10_state.md` and `20_memory.md`. -/

namespace Sys2Proof.Machine

/-! ### The frame of the emitting commands -/

/-- Everything an emitting command can do (R135, R137): be discarded under a fault, or emit the first `n` of its pulses, none
of them on a closed session, and record at most a fault of its own. -/
theorem exec_emits_cases {i : Instr} {s t : State} (hi : emits i = true) (h : exec i s = .next t) :
    (s.cause ≠ 0#4 ∧ t = s) ∨
      (s.cause = 0#4 ∧ ∃ n ≤ (pulsesOf i).length, s.samplesAfter ((pulsesOf i).take n) ≤ Config.maxSamples ∧
        (s.session = .closed → n = 0) ∧
          (t = s.afterPulses ((pulsesOf i).take n) ∨
            ∃ c : Cause, t = (s.afterPulses ((pulsesOf i).take n)).record c.code (encode i))) := by
  have hnone : s.afterPulses ((pulsesOf i).take 0) = s := afterPulses_nil s
  rw [exec_of_emits hi] at h
  cases h
  rcases emitCommand_cases (encode i) (topFreqOf i) (pulsesOf i) s with
    ⟨hs, hc, -, e⟩ | ⟨-, hc, -, e⟩ | ⟨-, hc, e⟩ | ⟨hc, e⟩
  · have hopen : s.session ≠ .closed := by simp [hs]
    refine .inr ⟨hc, ?_⟩
    rw [e]
    rcases emitPulses_cases (encode i) (pulsesOf i) s with ⟨hfit, e⟩ | ⟨n, hn, hfit, -, e⟩ <;> rw [e]
    · rw [← List.take_length (l := pulsesOf i)] at hfit
      refine ⟨(pulsesOf i).length, le_rfl, hfit, (absurd · hopen), .inl ?_⟩
      rw [List.take_length]
    · exact ⟨n, hn.le, hfit, (absurd · hopen), .inr ⟨.eovf, raise_clear hc⟩⟩
  · exact .inr ⟨hc, 0, Nat.zero_le _, emitted_le s, fun _ => rfl, .inr ⟨.efreq, by rw [e, hnone]⟩⟩
  · exact .inr ⟨hc, 0, Nat.zero_le _, emitted_le s, fun _ => rfl, .inr ⟨.eseq, by rw [e, hnone]⟩⟩
  · exact .inl ⟨hc, e⟩

/-- Pulses put bytes on the stream. -/
theorem exists_afterPulses_out_eq (s : State) (train : List Nat) :
    ∃ bytes : List Byte, (s.afterPulses train).out = s.out ++ bytes.map .byte :=
  ⟨trainBytes s.width s.srate.toNat s.emitted.toNat train, congrArg (s.out ++ ·) (trainItems_eq_bytes ..)⟩

/-- Settles O42: neither pulses nor the fault record touch the rest, and on a closed session there are no pulses. -/
theorem emittersLeaveTheRest : Obligations.EmittersLeaveTheRest := by
  intro i s t hi h
  rcases exec_emits_cases hi h with ⟨hc, rfl⟩ | ⟨hc, n, -, -, hclosed, ht⟩
  · exact ⟨rfl, rfl, rfl, rfl, rfl, rfl, fun _ => ⟨rfl, rfl, rfl⟩, fun _ => rfl, fun _ => rfl, [], by simp⟩
  · have hstill (hq : s.cause ≠ 0#4 ∨ s.session = .closed) : (s.afterPulses ((pulsesOf i).take n)).out = s.out ∧
        (s.afterPulses ((pulsesOf i).take n)).emitted = s.emitted ∧
        (s.afterPulses ((pulsesOf i).take n)).pulses = s.pulses := by
      rw [hclosed (hq.resolve_left (absurd hc)), List.take_zero, afterPulses_nil]
      exact ⟨rfl, rfl, rfl⟩
    have hbytes := exists_afterPulses_out_eq s ((pulsesOf i).take n)
    rcases ht with rfl | ⟨c, rfl⟩
    · exact ⟨rfl, rfl, rfl, rfl, rfl, rfl, hstill, fun hne => absurd hc hne, fun _ => rfl, hbytes⟩
    · have hcode : c.code ≠ s.cause := hc ▸ c.code_ne_zero
      exact ⟨rfl, rfl, rfl, rfl, rfl, rfl, hstill, fun hne => absurd hc hne, fun he => absurd he hcode, hbytes⟩

/-! ### The frame of the session commands -/

/-- Settles O43: a FLUSH that hands off writes `OUT` and `SESSION` only; an OPEN that does not succeed, the fault record only. -/
theorem sessionCommandsLeaveTheRest : Obligations.SessionCommandsLeaveTheRest := by
  refine ⟨fun s t h => ?_, fun s t width srate h => ?_⟩
  · rcases exec_flush_cases h with ⟨-, rfl⟩ | ⟨hs, hc, rfl⟩ | ⟨-, -, rfl⟩
    · exact ⟨rfl, rfl, rfl, rfl, rfl, rfl, rfl, fun _ => ⟨rfl, rfl⟩, List.prefix_append ..⟩
    · exact ⟨rfl, rfl, rfl, rfl, rfl, rfl, rfl, fun hq => absurd hc (hq.resolve_left hs), List.prefix_rfl⟩
    · exact ⟨rfl, rfl, rfl, rfl, rfl, rfl, rfl, fun _ => ⟨rfl, rfl⟩, List.prefix_rfl⟩
  · rcases exec_openBuf_cases h with ⟨_, _, rfl⟩ | ⟨hs, -, -, rfl⟩
    · exact ⟨rfl, rfl, rfl, rfl, fun _ => ⟨rfl, rfl, rfl, rfl⟩⟩
    · exact ⟨rfl, rfl, rfl, rfl, fun hopen => nomatch hopen.trans hs⟩

/-! ### The stream (`20_memory.md` R32) -/

/-- A command only appends to `OUT`, and leaves the streams of earlier runs. -/
theorem exec_out_prefix {i : Instr} {s t : State} (h : exec i s = .next t) :
    s.out <+: t.out ∧ t.earlierRuns = s.earlierRuns := by
  obtain ⟨hflush, hopen⟩ := sessionCommandsLeaveTheRest
  cases hi : emits i with
  | true =>
    obtain ⟨-, -, -, -, -, hruns, -, -, -, bytes, hout⟩ := emittersLeaveTheRest i s t hi h
    exact ⟨hout ▸ List.prefix_append .., hruns⟩
  | false =>
    rcases not_emits_iff.mp hi with rfl | ⟨width, srate, rfl⟩
    · obtain ⟨-, -, -, -, -, -, hruns, -, hout⟩ := hflush s t h
      exact ⟨hout, hruns⟩
    · obtain ⟨hout, -, -, hruns, -⟩ := hopen s t width srate h
      exact ⟨hout ▸ List.prefix_rfl, hruns⟩

/-- Settles O44: only a command and a reset come near the stream. -/
theorem outputIsAppendOnly : Obligations.OutputIsAppendOnly := by
  intro s t h
  cases step_cases h with
  | idle hin e => exact .inl ⟨by simp [hin], e ▸ List.prefix_rfl, e ▸ rfl⟩
  | read _ _ rest hin e | ignored _ _ _ rest hin _ e =>
    exact .inl ⟨by simp [hin], e ▸ List.prefix_rfl, e ▸ rfl⟩
  | illegal _ _ rest hin _ e =>
    exact .inl ⟨by simp [hin, cmdWrite], by simp [e], by simp [e]⟩
  | command _ _ rest hin _ hexec =>
    exact .inl ⟨by simp [hin, cmdWrite], exec_out_prefix (s := s.withInbox rest) hexec⟩
  | reset rest hin e => exact .inr ⟨by simp [hin], e ▸ rfl, e ▸ rfl⟩

/-! ### The counters (`10_state.md` R11, R12) -/

/-- A command moves the counters by the first few of its pulses, or zeroes them as an OPEN that succeeds. -/
theorem exec_counters {i : Instr} {s t : State} (h : exec i s = .next t) :
    (t.emitted = s.emitted ∧ t.pulses = s.pulses) ∨
      (t.emitted = 0 ∧ t.pulses = 0 ∧ ∃ width srate, i = .openBuf width srate ∧ s.session = .closed ∧
        t.session = .opened) ∨
      ∃ n ≤ (pulsesOf i).length,
        t.emitted.toNat = s.samplesAfter ((pulsesOf i).take n) ∧ t.pulses = s.pulses + BitVec.ofNat 32 n := by
  cases hi : emits i with
  | true =>
    rcases exec_emits_cases hi h with ⟨-, rfl⟩ | ⟨-, n, hn, hfit, -, ht⟩
    · exact .inl ⟨rfl, rfl⟩
    · have hpulses : (s.afterPulses ((pulsesOf i).take n)).pulses = s.pulses + BitVec.ofNat 32 n := by
        rw [State.afterPulses, List.length_take_of_le hn]
      refine .inr (.inr ⟨n, hn, ?_⟩)
      rcases ht with rfl | ⟨c, rfl⟩ <;> exact ⟨afterPulses_emitted hfit, hpulses⟩
  | false =>
    rcases not_emits_iff.mp hi with rfl | ⟨width, srate, rfl⟩
    · obtain ⟨hemitted, hpulses, -⟩ := exec_flush_keeps h
      exact .inl ⟨hemitted, hpulses⟩
    · rcases exec_openBuf_cases h with ⟨_, _, rfl⟩ | ⟨hs, -, -, rfl⟩
      · exact .inl ⟨rfl, rfl⟩
      · exact .inr (.inl ⟨rfl, rfl, width, srate, rfl, hs, rfl⟩)

/-- Settles O45: of the ways a step can go only a command and a reset move a counter. -/
theorem countersMoveOnlyByPulses : Obligations.CountersMoveOnlyByPulses := by
  intro s t h
  cases step_cases h with
  | idle _ e | read _ _ _ _ e | ignored _ _ _ _ _ _ e => exact .inl (e ▸ ⟨rfl, rfl⟩)
  | illegal _ _ _ _ _ e => exact .inl (e ▸ ⟨raise_emitted .., raise_pulses ..⟩)
  | reset _ hin e => exact .inr (.inl (e ▸ ⟨rfl, rfl, .inl (by simp [hin])⟩))
  | command w i rest hin hdec hexec =>
    have hhead : s.inbox.head? = some (cmdWrite w) := by simp [hin]
    rcases exec_counters (s := s.withInbox rest) hexec with
      hkept | ⟨he, hp, width, srate, rfl, hs, ho⟩ | ⟨n, hn, he, hp⟩
    · exact .inl hkept
    · exact .inr (.inl ⟨he, hp, .inr ⟨w, width, srate, hhead, hdec, hs, ho⟩⟩)
    · exact .inr (.inr ⟨w, i, n, hhead, hdec, hn, he, hp⟩)

/-! ### `PULSES` decides nothing (`10_state.md` R12) -/

/-- The state with another value in `PULSES`. -/
def State.withPulses (s : State) (q : BitVec 32) : State := { s with pulses := q }

/-- With another value in `PULSES` the operation does the same to everything else. -/
def PulsesBlind (act : State → State) : Prop := ∀ s q, ∃ q', act (s.withPulses q) = (act s).withPulses q'

theorem PulsesBlind.id : PulsesBlind fun s => s := fun _ q => ⟨q, rfl⟩

/-- A choice that does not look at `PULSES`. -/
theorem PulsesBlind.ite {p : State → Prop} [DecidablePred p] {f g : State → State}
    (hp : ∀ s q, p (s.withPulses q) ↔ p s) (hf : PulsesBlind f) (hg : PulsesBlind g) :
    PulsesBlind fun s => if p s then f s else g s := by
  intro s q
  simp only [hp]
  split_ifs
  · exact hf s q
  · exact hg s q

theorem pulsesBlind_raise (c : Cause) (cw : Word) : PulsesBlind (raise c cw) :=
  .ite (fun _ _ => Iff.rfl) (fun _ q => ⟨q, rfl⟩) .id

theorem pulsesBlind_accept {act : State → State} (h : PulsesBlind act) (needs : Session) (underFault : Bool) (cw : Word) :
    PulsesBlind (accept needs underFault cw act) :=
  .ite (fun _ _ => Iff.rfl) (.ite (fun _ _ => Iff.rfl) h (pulsesBlind_raise .eseq cw)) (.ite (fun _ _ => Iff.rfl) h .id)

/-- A pulse fits or does not whatever `PULSES` is, and counts one more. -/
theorem emitPulse_withPulses (fp : Nat) (s : State) (q : BitVec 32) :
    emitPulse fp (s.withPulses q) = (emitPulse fp s).map (·.withPulses (q + 1)) := by
  rcases Nat.lt_or_ge Config.maxSamples (s.emitted.toNat + pulseSamples s.srate.toNat fp s.emitted.toNat) with h | h
  · rw [emitPulse_overflows h, emitPulse_overflows (s := s.withPulses q) h]
    rfl
  · rw [emitPulse_fits h, emitPulse_fits (s := s.withPulses q) h]
    rfl

theorem pulsesBlind_emitPulses (cw : Word) (train : List Nat) : PulsesBlind (emitPulses cw train) := by
  induction train with
  | nil => exact .id
  | cons fp rest ih =>
    intro s q
    simp only [emitPulses, emitPulse_withPulses]
    cases emitPulse fp s with
    | none => exact pulsesBlind_raise .eovf cw s q
    | some t => exact ih t (q + 1)

theorem pulsesBlind_createBuffer (cw : Word) (width srate : Nat) : PulsesBlind (createBuffer cw width srate) :=
  .ite (fun _ _ => Iff.rfl) (pulsesBlind_raise .ecfg cw) fun _ _ => ⟨0, rfl⟩

theorem pulsesBlind_bodyOf (i : Instr) : PulsesBlind (bodyOf i) := by
  cases i with
  | flush => exact fun _ q => ⟨q, rfl⟩
  | openBuf width srate => exact pulsesBlind_createBuffer _ width srate
  | pulse | bit | byte | shdr | lhdr =>
    exact .ite (fun _ _ => Iff.rfl) (pulsesBlind_emitPulses _ _) (pulsesBlind_raise .efreq _)

/-- Settles O46: a command is its acceptance and its body, neither of which looks at `PULSES`. -/
theorem pulsesCounterDecidesNothing : Obligations.PulsesCounterDecidesNothing := by
  intro i s t q h
  rw [exec_eq_accept] at h
  cases h
  obtain ⟨q', e⟩ := pulsesBlind_accept (pulsesBlind_bodyOf i) (sessionFor i) (!emits i) (encode i) s q
  exact ⟨q', (exec_eq_accept i (s.withPulses q)).trans (congrArg _ e)⟩

end Sys2Proof.Machine

/-! What a step answers, input by input: a command word, a line of a host program, a misrouted access, a reset; the `fault`
output and the items on the wire. -/

namespace Sys2Proof.Machine

/-! ### Command words (`30_encoding.md` R51, R52, R57) -/

/-- Settles O1: `Decode` computes on each of the ten words. -/
theorem writtenWordsDecode : Obligations.WrittenWordsDecode := by
  unfold Obligations.WrittenWordsDecode
  decide

/-- Settles O5: `Execute` of a word that decodes is its command. -/
theorem stepRunsDecodedCommand : Obligations.StepRunsDecodedCommand := fun _ _ _ _ => step_of_command

theorem decode_of_decodeTableWord {nbits w : Nat} {i : Instr} (h : decodeTableWord nbits w = some i) :
    decode (BitVec.ofNat 32 (w % 2 ^ nbits)) = .command i := by
  unfold decodeTableWord at h
  split at h
  case h_1 hdec =>
    cases h
    exact hdec
  case h_2 => cases h

/-- Settles O6: once the placed word is taken, the inputs are those that waited before it was placed. -/
theorem placedWordRunsNext : Obligations.PlacedWordRunsNext := fun s w _ _ h =>
  step_of_command (s := s.withFetchWord 32 w) rfl (decode_of_decodeTableWord h)

/-- Settles O7: a line is one input, and the rest of the program the inputs after it. -/
theorem assembledLinesRun : Obligations.AssembledLinesRun := by
  refine ⟨fun s i rest hwf hin => step_of_command hin (decode_encode hwf), fun s w rest hin => step_of_inbox_cons hin,
    fun s r rest hin => ?_⟩
  rw [step_of_read hin]
  cases r <;> rfl

/-! ### Priority of faults (`60_exceptions.md` R134) -/

/-- Settles O9: the illegal word is no command, the next two commands are out of sequence, and the last one fails the check
that stands before its pulses. -/
theorem priorityExamplesHold : Obligations.PriorityExamplesHold := by
  have hbyte : decode 0x30000055 = .command (.byte 0 0x55) := by decide
  intro s rest
  refine ⟨fun hc _ hin => ?_, fun hc hs hin => ?_, fun hc hs hin => ?_, fun hc hs _ hin => ?_⟩
  · rw [step_of_illegal (why := .opcode) hin (by decide), raise_clear (s := s.withInbox rest) hc]
    rfl
  · exact sequenceErrorRecordsEseq s _ rest (.pulse 0) hin hc (by decide) (.inr ⟨nofun, hs⟩)
  · exact sequenceErrorRecordsEseq s _ rest (.openBuf 3 0) hin hc (by decide) (.inl ⟨⟨3, 0, rfl⟩, hs⟩)
  · have hf : freqOk (topFreqOf (.byte 0 0x55)) s.srate = false := freqOk_eq_false_iff.mpr (.inl rfl)
    rw [step_of_command hin hbyte, exec_of_freq_not_ok (s := s.withInbox rest) rfl ⟨hs, hc⟩ hf, encode_of_decode hbyte]
    rfl

/-! ### Accesses that are no register access (`20_memory.md` R37) -/

/-- A read is answered and changes nothing else (R33). -/
@[simp] theorem takeInput_read (size : AccessSize) (off : Nat) (s : State) :
    takeInput (.read size off) s = .next (s.answer (busRead size off s)) := rfl

theorem busRead_of_misrouted {size : AccessSize} {off : Nat} (h : size ≠ .word ∨ off % 4 ≠ 0 ∨ 32 ≤ off)
    (s : State) : busRead size off s = 0 := by
  cases size with
  | byte | half => rfl
  | word =>
    have hoff : off % 4 ≠ 0 ∨ 32 ≤ off := h.resolve_left (· rfl)
    change regRead off s = 0
    rw [regRead_eq, if_neg (by omega), if_neg (by omega), if_neg (by omega), if_neg (by omega), if_neg (by omega)]

/-- Settles O51: no register stands at such an offset, and `CMD` is not written. -/
theorem misroutedAccessesDoNothing : Obligations.MisroutedAccessesDoNothing := by
  refine ⟨fun s size off rest h hin => ?_, fun s size off v rest h hin => ?_⟩
  · rw [step_of_inbox_cons hin, takeInput_read, busRead_of_misrouted h]
    rfl
  · have hmiss : size ≠ .word ∨ off ≠ 0x00 := h.imp_right (by omega)
    exact (step_of_inbox_cons hin).trans (busWrite_of_not_cmd hmiss v _)

/-! ### The `fault` output and the wire (R139, R46) -/

/-- Settles O53: the output, `STATUS.FAULT` and `CAUSE` are one, and a successful OPEN clears it. -/
theorem faultOutputFollowsCause : Obligations.FaultOutputFollowsCause := by
  have hlevel (s : State) : faultOutput s = true ↔ s.cause ≠ 0#4 := bne_iff_ne
  refine ⟨fun s => ⟨hlevel s, ?_⟩, rfl, fun s t width srate hs hw hr h => ?_⟩
  · obtain ⟨-, hstatus, -⟩ := statusWord_fields s
    rw [regRead_status, Bool.eq_iff_iff, hlevel, hstatus]
  · cases (exec_openBuf_of_legal hs hw hr).symm.trans h
    rfl

/-- Settles O55: the reset input is the restart. -/
theorem resetInputStartsANewRun : Obligations.ResetInputStartsANewRun := fun _ _ => step_of_inbox_cons

/-- A byte item has bit 8 clear and the byte below it (R46). -/
theorem wire_byte (b : Byte) :
    (Item.wire (.byte b)).getLsbD 8 = false ∧ (Item.wire (.byte b)).extractLsb 7 0 = b := by
  have hb := b.isLt
  refine ⟨by simp [Item.wire], BitVec.eq_of_toNat_eq ?_⟩
  simp only [Item.wire, BitVec.extractLsb_toNat, BitVec.toNat_ofNat, Nat.shiftRight_zero]
  omega

/-- An `End` item has bit 8 set, `flt` in bit 0 and zeros between (R46). -/
theorem wire_endItem (c : Nat) (w : BitVec 3) (r : BitVec 24) (flt : Bool) :
    (Item.wire (.endItem c w r flt)).getLsbD 8 = true ∧ (Item.wire (.endItem c w r flt)).getLsbD 0 = flt ∧
      (Item.wire (.endItem c w r flt)).extractLsb 7 1 = 0 := by
  have hbits : ∀ f : Bool, (BitVec.ofNat 9 (256 + f.toNat)).getLsbD 8 = true ∧
      (BitVec.ofNat 9 (256 + f.toNat)).getLsbD 0 = f ∧ (BitVec.ofNat 9 (256 + f.toNat)).extractLsb 7 1 = 0 := by decide
  exact hbits flt

/-- Settles O57: both kinds of item, and the `End` item that FLUSH appends. -/
theorem streamItemsOnTheWire : Obligations.StreamItemsOnTheWire := by
  refine ⟨wire_byte, wire_endItem, fun s t hs h => ⟨handOff s, ?_, rfl⟩⟩
  cases (exec_of_not_emits rfl hs).symm.trans h
  rcases flushBuffer_out s with e | e <;> simp [bodyOf, e]

end Sys2Proof.Machine
